-- ==== Sys2Proof/Word.lean ====
section
/-! DEFINITION. The widths of the core: 32-bit words, bytes, and 16-bit literals (00_scope.md R5, R6). -/

namespace Sys2Proof

/-- A 32-bit value: a general register, HI, an ALU result, a memory word (R5, R6). -/
abbrev Word := BitVec 32

/-- One byte of the data memory (R50). -/
abbrev Byte := BitVec 8

/-- A literal after truncation, "at most 4 hex digits" (R5, R86). -/
abbrev Imm16 := BitVec 16

end Sys2Proof
end

