-- ==== Sys2Proof/Config.lean ====
section
/-! DEFINITION. The parameters the spec keeps open (00_scope.md R5; 92_eei_decisions.md D11, D14, D17, D19;
93_implementation_defined.md U1, U2, U7, U8), with the spec's defaults, and the one free value. -/

namespace Sys2Proof

/-- U1: what a decode-time read one or two slots after its producer does. -/
inductive HazardPolicy where
  /-- The default: the old value is read (R275). -/
  | oldValue
  /-- The model flags the read: the step ends in a fault. -/
  | fault
deriving DecidableEq, Repr

/-- U2: what a taken branch with a delay slot that is not blank does. -/
inductive BranchPolicy where
  /-- The default: the delay slot executes, fetch resumes at line T - 1 (R203). -/
  | literal
  /-- The model flags such a branch: the step ends in a fault. -/
  | fault
deriving DecidableEq, Repr

/-- U7: a shift amount of 32 or more. -/
inductive ShiftPolicy where
  /-- The default: the amount is the low five bits (R188, R189). -/
  | low5
  /-- No result is defined: the step is refused. -/
  | refuse
deriving DecidableEq, Repr

/-- U8: the remainder DIV leaves in HI when the operands have opposite signs and the division is inexact. -/
inductive DivRemainder where
  /-- The default: the floored remainder (R166, D14). -/
  | floored
  /-- HI is unconstrained in exactly these cases. -/
  | anyValue
deriving DecidableEq, Repr

/-- What an implementation of the core fixes once (R5). A step never changes it; log 1 to 5. -/
structure Config where
  /-- MEM_BYTES, the size of the data memory in bytes (R5, R50, D19). -/
  memBytes : Nat
  /-- CEILING, the greatest number of cycles of a run (R5, R134, D11). -/
  ceiling : Nat
  hazardPolicy : HazardPolicy
  branchPolicy : BranchPolicy
  shiftPolicy : ShiftPolicy
  divRemainder : DivRemainder
deriving DecidableEq, Repr

/-- The reference sizing and the default of every policy (R5, U1, U2, U7, U8). -/
def Config.reference : Config where
  memBytes := 8192
  ceiling := 2000000
  hazardPolicy := .oldValue
  branchPolicy := .literal
  shiftPolicy := .low5
  divRemainder := .floored

/-- The four policies at their defaults; sizes are open. -/
def Config.defaultPolicies (c : Config) : Bool :=
  c.hazardPolicy == .oldValue && c.branchPolicy == .literal && c.shiftPolicy == .low5
    && c.divRemainder == .floored

/-- MEM_BYTES "must be a positive multiple of 4" (R5, R50, D19). -/
def Config.wf (c : Config) : Bool := decide (0 < c.memBytes) && c.memBytes % 4 == 0

/-- The remainder of an inexact division of operands of opposite signs under DIV_REMAINDER = any value (U8):
a free value, a function of dividend and divisor that nothing constrains (log 5). -/
opaque Config.freeRemainder : Word → Word → Word

end Sys2Proof
end

