-- ==== Sys2Proof/Syntax.lean ====
section
/-! DEFINITION. The abstract syntax of 30_encoding.md R102: literals, the instructions (one constructor per row of
spec/opcode_table.json), the entries of the Program Store, and what decoding an entry answers. -/

namespace Sys2Proof

/-- A literal token after R86: its 16-bit value, and whether it was written with more than 4 hex digits
(it then reports `ImmediateOverflow` each time the line is decoded, R102). -/
structure Lit where
  value : Imm16
  overflow : Bool
deriving DecidableEq, Repr

/-- The 24 mnemonics of R92. -/
inductive Mnemonic where
  | add | addi | sub | subi | mul | mulu | div | divu
  | and | andi | or | ori | xor | xori | nor | sll | srl
  | mfhi | lw | li | lui | sw | beq | bne
deriving DecidableEq, Repr

/-- An instruction in canonical form (R92). A register operand is the natural number its token spells; indices of
32 and more are legal text (R21, R85). `d` is the destination, `s`, `t` sources; token order as in the table. -/
inductive Instr where
  /-- The NOP sentinel: a blank line, a fetch outside the program, an emptied latch (R222). -/
  | nop
  | add (d s t : Nat)
  | addi (d s : Nat) (imm : Lit)
  | sub (d s t : Nat)
  | subi (d s : Nat) (imm : Lit)
  | mul (d s t : Nat)
  | mulu (d s t : Nat)
  | div (d s t : Nat)
  | divu (d s t : Nat)
  | and (d s t : Nat)
  | andi (d s : Nat) (imm : Lit)
  | or (d s t : Nat)
  | ori (d s : Nat) (imm : Lit)
  | xor (d s t : Nat)
  | xori (d s : Nat) (imm : Lit)
  | nor (d s t : Nat)
  /-- SLL with a register amount. -/
  | sll (d s t : Nat)
  /-- SRL with a register amount. -/
  | srl (d s t : Nat)
  | mfhi (d : Nat)
  | lw (t : Nat) (off : Lit) (b : Nat)
  | li (d : Nat) (imm : Lit)
  | lui (d : Nat) (imm : Lit)
  | sw (t : Nat) (off : Lit) (b : Nat)
  | beq (a b : Nat) (tgt : Lit)
  | bne (a b : Nat) (tgt : Lit)
  /-- SLL with a literal amount. -/
  | sllImm (d s : Nat) (imm : Lit)
  /-- SRL with a literal amount. -/
  | srlImm (d s : Nat) (imm : Lit)
deriving DecidableEq, Repr

/-- One entry of the Program Store: a normalised source line (R29), the empty text being the blank line (R81); or
the 32-bit binary image of a canonical line (R98), for a program given as words (log 6). -/
inductive Line where
  | text (raw : List Char)
  | image (w : BitVec 32)
deriving DecidableEq, Repr

/-- Why a line is refused: R94, R95, R96 in this order. -/
inductive IllFormed where
  /-- R94: a known mnemonic in another shape than its canonical one. -/
  | wrongShape
  /-- R95: the canonical shape with an operand of another kind. -/
  | wrongOperandKind
  /-- R96: an operand token that is no register, literal or memory operand. -/
  | malformedToken
deriving DecidableEq, Repr

/-- What decoding an entry of the Program Store answers (R97: every line is one of these). -/
inductive Decoded where
  | instr (i : Instr)
  /-- R93: an unknown mnemonic, which executes as a no-operation; its token 0. -/
  | unknown (mnemonic : List Char)
  | illFormed (why : IllFormed)
deriving DecidableEq, Repr

/-- An operand token (R84). -/
inductive Token where
  | reg (n : Nat)
  | lit (l : Lit)
  | mem (off : Lit) (base : Nat)
  | malformed
deriving DecidableEq, Repr

/-- The four shapes of R88. -/
inductive Shape where
  | s4 | s3m | s3 | s2
deriving DecidableEq, Repr

end Sys2Proof
end

