-- ==== Sys2Proof/WellFormed.lean ====
section
/-! DEFINITION. Which instructions have a 32-bit binary image (30_encoding.md R98): every register index at most 31,
and no literal that reports an overflow ("the image cannot express an `ImmediateOverflow`"). An instruction that is not
well formed in this sense is still legal program text and has its meaning (R22, R23, R86). -/

namespace Sys2Proof

/-- A register index the image's 5-bit fields can hold (R98). -/
def regWf (n : Nat) : Bool := decide (n < 32)

/-- A literal the image's 16-bit field can hold (R98). -/
def Lit.wf (l : Lit) : Bool := !l.overflow

/-- The instruction has a binary image (R98). -/
def Instr.wf : Instr → Bool
  | .nop => true
  | .add d s t | .sub d s t | .mul d s t | .mulu d s t | .div d s t | .divu d s t
  | .and d s t | .or d s t | .xor d s t | .nor d s t | .sll d s t | .srl d s t =>
      regWf d && regWf s && regWf t
  | .addi d s imm | .subi d s imm | .andi d s imm | .ori d s imm | .xori d s imm
  | .sllImm d s imm | .srlImm d s imm => regWf d && regWf s && imm.wf
  | .mfhi d => regWf d
  | .lw t off b | .sw t off b => regWf t && off.wf && regWf b
  | .li d imm | .lui d imm => regWf d && imm.wf
  | .beq a b tgt | .bne a b tgt => regWf a && regWf b && tgt.wf

end Sys2Proof
end

