-- ==== Sys2Proof/Decode.lean ====
section
/-! DEFINITION. Decoding of Program Store entries: line normalisation (30_encoding.md R80, R81), tokens (R83 to R87),
shapes (R88), canonical forms (R92), refused lines (R94 to R96), the 32-bit binary image (R98), the bit-field helpers
(00_scope.md R7); and after them the encoders: the canonical source line of an instruction and its binary image. -/

namespace Sys2Proof

/-! ## Bit fields and extension -/

/-- The slice `w[lo+n-1 : lo]` as a natural number (R6). -/
def field (w : BitVec 32) (lo n : Nat) : Nat := w.toNat / 2 ^ lo % 2 ^ n

/-- `sext16(v)`: the low 16 bits of `v` read as a two's-complement number (R7). -/
def sext16 (v : Word) : Int := (v.setWidth 16).toInt

/-- `zext16(v)`: the low 16 bits of `v`, bits 31 to 16 zero (R7). -/
def zext16 (v : Word) : Word := (v.setWidth 16).setWidth 32

/-- `u32(x) = x mod 2^32` (R6). -/
def u32 (x : Int) : Word := BitVec.ofInt 32 x

/-- `s32(v)`: the two's-complement reading of a 32-bit value (R6). -/
def s32 (v : Word) : Int := v.toInt

/-- The 32-bit resolved value of a literal: its 16 bits zero-extended (R86, R128). -/
def Lit.word (l : Lit) : Word := l.value.setWidth 32

/-! ## From source line to entry -/

/-- White space that R80 deletes at both ends of a line: space, tab, line feed, vertical tab, form feed,
carriage return. DESIGN CHOICE, log 14: the spec says "white space" and names no characters. -/
def isSpace (c : Char) : Bool :=
  c == ' ' || c == '\t' || c == '\n' || c == '\r' || c == Char.ofNat 11 || c == Char.ofNat 12

/-- Leading and trailing white space deleted (R80). -/
def trim (l : List Char) : List Char :=
  ((l.dropWhile isSpace).reverse.dropWhile isSpace).reverse

/-- R80: delete the first `#` and everything after it, trim, upper-case (ASCII letters; DESIGN CHOICE, log 14). -/
def normalise (line : List Char) : List Char :=
  (trim (line.takeWhile (· != '#'))).map Char.toUpper

/-! ## Tokens -/

/-- A separator is a space, a horizontal tab or a comma (R83, D3). -/
def isSeparator (c : Char) : Bool := c == ' ' || c == '\t' || c == ','

/-- The tokens of a text of which the characters `cur`, last first, have been read into the current token. -/
def tokensFrom (cur : List Char) : List Char → List (List Char)
  | [] => if cur.isEmpty then [] else [cur.reverse]
  | c :: cs =>
    if isSeparator c then
      if cur.isEmpty then tokensFrom [] cs else cur.reverse :: tokensFrom [] cs
    else tokensFrom (c :: cur) cs

/-- R83: split at every maximal run of separators, empty tokens discarded. -/
def tokenise (raw : List Char) : List (List Char) := tokensFrom [] raw

def isDecDigit (c : Char) : Bool := decide (48 ≤ c.toNat) && decide (c.toNat ≤ 57)

/-- A hexadecimal digit after upper-casing (R86). -/
def isHexDigit (c : Char) : Bool := isDecDigit c || (decide (65 ≤ c.toNat) && decide (c.toNat ≤ 70))

/-- The value of a decimal or hexadecimal digit. -/
def digitValue (c : Char) : Nat := if c.toNat ≤ 57 then c.toNat - 48 else c.toNat - 55

/-- The number a digit string spells in a base. -/
def numeral (base : Nat) (ds : List Char) : Nat := ds.foldl (fun acc c => acc * base + digitValue c) 0

/-- R85: `$` and one or more decimal digits; leading zeros allowed, no upper bound (D4). -/
def registerToken : List Char → Option Nat
  | '$' :: ds => if !ds.isEmpty && ds.all isDecDigit then some (numeral 10 ds) else none
  | _ => none

/-- R86: one or more hex digits; of more than 4 the first 4 are kept and an overflow is marked. -/
def literalToken (tok : List Char) : Option Lit :=
  if !tok.isEmpty && tok.all isHexDigit then
    some { value := BitVec.ofNat 16 (numeral 16 (tok.take 4)), overflow := decide (4 < tok.length) }
  else none

/-- R87: a literal, `(`, a register token, `)`, with nothing after. -/
def memoryToken (tok : List Char) : Option (Lit × Nat) :=
  match tok.dropWhile (· != '(') with
  | _ :: inner =>
    if inner.getLast? = some ')' then
      match literalToken (tok.takeWhile (· != '(')), registerToken inner.dropLast with
      | some off, some b => some (off, b)
      | _, _ => none
    else none
  | [] => none

/-- R84: exactly one class for every operand token. -/
def classify (tok : List Char) : Token :=
  match registerToken tok, literalToken tok, memoryToken tok with
  | some n, _, _ => .reg n
  | none, some l, _ => .lit l
  | none, none, some (off, b) => .mem off b
  | none, none, none => .malformed

/-! ## Shapes and canonical forms -/

/-- R88: the shape is chosen from the operand tokens alone; 1 token or 5 and more tokens (the mnemonic counted) have none. -/
def shapeOf : List Token → Option Shape
  | [_, _, _] => some .s4
  | [_, .mem _ _] => some .s3m
  | [_, _] => some .s3
  | [_] => some .s2
  | _ => none

/-- The text of a mnemonic (R92). -/
def Mnemonic.text : Mnemonic → List Char
  | .add => ['A', 'D', 'D']
  | .addi => ['A', 'D', 'D', 'I']
  | .sub => ['S', 'U', 'B']
  | .subi => ['S', 'U', 'B', 'I']
  | .mul => ['M', 'U', 'L']
  | .mulu => ['M', 'U', 'L', 'U']
  | .div => ['D', 'I', 'V']
  | .divu => ['D', 'I', 'V', 'U']
  | .and => ['A', 'N', 'D']
  | .andi => ['A', 'N', 'D', 'I']
  | .or => ['O', 'R']
  | .ori => ['O', 'R', 'I']
  | .xor => ['X', 'O', 'R']
  | .xori => ['X', 'O', 'R', 'I']
  | .nor => ['N', 'O', 'R']
  | .sll => ['S', 'L', 'L']
  | .srl => ['S', 'R', 'L']
  | .mfhi => ['M', 'F', 'H', 'I']
  | .lw => ['L', 'W']
  | .li => ['L', 'I']
  | .lui => ['L', 'U', 'I']
  | .sw => ['S', 'W']
  | .beq => ['B', 'E', 'Q']
  | .bne => ['B', 'N', 'E']

/-- The 24 mnemonics in the order of R92. -/
def Mnemonic.all : List Mnemonic :=
  [.add, .addi, .sub, .subi, .mul, .mulu, .div, .divu, .and, .andi, .or, .ori, .xor, .xori, .nor, .sll, .srl,
   .mfhi, .lw, .li, .lui, .sw, .beq, .bne]

/-- The mnemonic a token 0 spells, if it is one of the 24. -/
def mnemonicOf (tok : List Char) : Option Mnemonic := Mnemonic.all.find? (fun m => m.text == tok)

/-- The one shape in which a mnemonic is admitted (R92). -/
def Mnemonic.shape : Mnemonic → Shape
  | .mfhi => .s2
  | .lw | .sw => .s3m
  | .li | .lui => .s3
  | _ => .s4

/-- Why a line with a known mnemonic that is not in canonical form is refused: a malformed token (R96), else another
shape (R94), else another operand kind (R95). The three are refused alike. -/
def refusalReason (m : Mnemonic) (ops : List Token) : IllFormed :=
  if ops.any (· == .malformed) then .malformedToken
  else if shapeOf ops ≠ some m.shape then .wrongShape
  else .wrongOperandKind

/-- The canonical form of a mnemonic (R92), filled from its operand tokens. -/
def canonical : Mnemonic → List Token → Option Instr
  | .add, [.reg d, .reg s, .reg t] => some (.add d s t)
  | .addi, [.reg d, .reg s, .lit imm] => some (.addi d s imm)
  | .sub, [.reg d, .reg s, .reg t] => some (.sub d s t)
  | .subi, [.reg d, .reg s, .lit imm] => some (.subi d s imm)
  | .mul, [.reg d, .reg s, .reg t] => some (.mul d s t)
  | .mulu, [.reg d, .reg s, .reg t] => some (.mulu d s t)
  | .div, [.reg d, .reg s, .reg t] => some (.div d s t)
  | .divu, [.reg d, .reg s, .reg t] => some (.divu d s t)
  | .and, [.reg d, .reg s, .reg t] => some (.and d s t)
  | .andi, [.reg d, .reg s, .lit imm] => some (.andi d s imm)
  | .or, [.reg d, .reg s, .reg t] => some (.or d s t)
  | .ori, [.reg d, .reg s, .lit imm] => some (.ori d s imm)
  | .xor, [.reg d, .reg s, .reg t] => some (.xor d s t)
  | .xori, [.reg d, .reg s, .lit imm] => some (.xori d s imm)
  | .nor, [.reg d, .reg s, .reg t] => some (.nor d s t)
  | .sll, [.reg d, .reg s, .reg t] => some (.sll d s t)
  | .sll, [.reg d, .reg s, .lit imm] => some (.sllImm d s imm)
  | .srl, [.reg d, .reg s, .reg t] => some (.srl d s t)
  | .srl, [.reg d, .reg s, .lit imm] => some (.srlImm d s imm)
  | .mfhi, [.reg d] => some (.mfhi d)
  | .lw, [.reg t, .mem off b] => some (.lw t off b)
  | .li, [.reg d, .lit imm] => some (.li d imm)
  | .lui, [.reg d, .lit imm] => some (.lui d imm)
  | .sw, [.reg t, .mem off b] => some (.sw t off b)
  | .beq, [.reg a, .reg b, .lit tgt] => some (.beq a b tgt)
  | .bne, [.reg a, .reg b, .lit tgt] => some (.bne a b tgt)
  | _, _ => none

/-- Decoding of a token list: an unknown mnemonic is a no-operation whatever follows it (R93, D28); a known one has
its canonical form or is refused (R94 to R96). A text of separators only has no token 0 and so none that is one of
the 24: DESIGN CHOICE, log 13. -/
def decodeTokens : List (List Char) → Decoded
  | [] => .unknown []
  | m :: ops =>
    match mnemonicOf m with
    | none => .unknown m
    | some k =>
      match canonical k (ops.map classify) with
      | some i => .instr i
      | none => .illFormed (refusalReason k (ops.map classify))

/-- Decoding of a normalised line; the empty text is the NOP sentinel (R81, R127). -/
def decodeText (raw : List Char) : Decoded :=
  if raw.isEmpty then .instr .nop else decodeTokens (tokenise raw)

/-! ## The 32-bit binary image -/

/-- The (match, mask) pairs of the 27 rows of spec/opcode_table.json, in its order. -/
def imageRows : List (BitVec 32 × BitVec 32) :=
  [(0x00000000#32, 0xFFFFFFFF#32), (0x04000000#32, 0xFC0007FF#32), (0x08000000#32, 0xFC000000#32),
   (0x0C000000#32, 0xFC0007FF#32), (0x10000000#32, 0xFC000000#32), (0x14000000#32, 0xFC0007FF#32),
   (0x18000000#32, 0xFC0007FF#32), (0x1C000000#32, 0xFC0007FF#32), (0x20000000#32, 0xFC0007FF#32),
   (0x24000000#32, 0xFC0007FF#32), (0x28000000#32, 0xFC000000#32), (0x2C000000#32, 0xFC0007FF#32),
   (0x30000000#32, 0xFC000000#32), (0x34000000#32, 0xFC0007FF#32), (0x38000000#32, 0xFC000000#32),
   (0x3C000000#32, 0xFC0007FF#32), (0x40000000#32, 0xFC0007FF#32), (0x44000000#32, 0xFC0007FF#32),
   (0x48000000#32, 0xFC1FFFFF#32), (0x4C000000#32, 0xFC000000#32), (0x50000000#32, 0xFC1F0000#32),
   (0x54000000#32, 0xFC1F0000#32), (0x58000000#32, 0xFC000000#32), (0x5C000000#32, 0xFC000000#32),
   (0x60000000#32, 0xFC000000#32), (0x64000000#32, 0xFC000000#32), (0x68000000#32, 0xFC000000#32)]

/-- The literal of the formats I3, B3, M and I2: bits 15 to 0, no overflow (R98). -/
def imageLit (w : BitVec 32) : Lit := { value := BitVec.ofNat 16 (field w 0 16), overflow := false }

/-- Format R3 (R98): `op d s t 0`. -/
def imageR3 (f : Nat → Nat → Nat → Instr) (w : BitVec 32) : Decoded :=
  if field w 0 11 = 0 then .instr (f (field w 21 5) (field w 16 5) (field w 11 5)) else .unknown []

/-- Formats I3 and B3 (R98): `op d s imm`. -/
def imageI3 (f : Nat → Nat → Lit → Instr) (w : BitVec 32) : Decoded :=
  .instr (f (field w 21 5) (field w 16 5) (imageLit w))

/-- Format M (R98): `op t b off`. -/
def imageM (f : Nat → Lit → Nat → Instr) (w : BitVec 32) : Decoded :=
  .instr (f (field w 21 5) (imageLit w) (field w 16 5))

/-- Format I2 (R98): `op d 00000 imm`. -/
def imageI2 (f : Nat → Lit → Instr) (w : BitVec 32) : Decoded :=
  if field w 16 5 = 0 then .instr (f (field w 21 5) (imageLit w)) else .unknown []

/-- Format R1 (R98): `op d 0`. -/
def imageR1 (f : Nat → Instr) (w : BitVec 32) : Decoded :=
  if field w 0 21 = 0 then .instr (f (field w 21 5)) else .unknown []

/-- Decoding of a binary image (R98). A word that matches no row "is treated as an unknown mnemonic"; it has no
mnemonic text. -/
def decodeImage (w : BitVec 32) : Decoded :=
  match field w 26 6 with
  | 0 => if w = 0 then .instr .nop else .unknown []
  | 1 => imageR3 .add w
  | 2 => imageI3 .addi w
  | 3 => imageR3 .sub w
  | 4 => imageI3 .subi w
  | 5 => imageR3 .mul w
  | 6 => imageR3 .mulu w
  | 7 => imageR3 .div w
  | 8 => imageR3 .divu w
  | 9 => imageR3 .and w
  | 10 => imageI3 .andi w
  | 11 => imageR3 .or w
  | 12 => imageI3 .ori w
  | 13 => imageR3 .xor w
  | 14 => imageI3 .xori w
  | 15 => imageR3 .nor w
  | 16 => imageR3 .sll w
  | 17 => imageR3 .srl w
  | 18 => imageR1 .mfhi w
  | 19 => imageM .lw w
  | 20 => imageI2 .li w
  | 21 => imageI2 .lui w
  | 22 => imageM .sw w
  | 23 => imageI3 .beq w
  | 24 => imageI3 .bne w
  | 25 => imageI3 .sllImm w
  | 26 => imageI3 .srlImm w
  | _ => .unknown []

/-! ## Entries -/

/-- The blank-line marker (R81), or the image of NOP, the word 0 (R222). -/
def Line.isBlank : Line → Bool
  | .text raw => raw.isEmpty
  | .image w => w == 0

/-- The DE stage's reading of an entry (R127). -/
def Line.decode : Line → Decoded
  | .text raw => decodeText raw
  | .image w => decodeImage w

/-- The instruction the decoder reads from an instruction word of spec/opcode_table.json; `none` where the word is no
instruction. The image is one whole 32-bit word and fetch has no byte order (R53, R98), so the table's bit numbers are
the word's; every bit above `nbits` is 0. -/
def decodeTableWord (nbits w : Nat) : Option Instr :=
  if w % 2 ^ nbits < 2 ^ 32 then
    match decodeImage (BitVec.ofNat 32 (w % 2 ^ nbits)) with
    | .instr i => some i
    | _ => none
  else none

/-! ## Encoders -/

/-- The character of a digit below 16. -/
def digitChar (n : Nat) : Char := if n < 10 then Char.ofNat (48 + n) else Char.ofNat (55 + n)

/-- The decimal numeral of `n`, by at most `fuel` digits. -/
def decimalDigits : Nat → Nat → List Char
  | 0, _ => []
  | fuel + 1, n => if n < 10 then [digitChar n] else decimalDigits fuel (n / 10) ++ [digitChar (n % 10)]

/-- A register token (R85). -/
def renderReg (n : Nat) : List Char := '$' :: decimalDigits (n + 1) n

/-- A literal token of four digits, and a fifth where the literal overflows (R86). -/
def renderLit (l : Lit) : List Char :=
  let v := l.value.toNat
  [digitChar (v / 4096 % 16), digitChar (v / 256 % 16), digitChar (v / 16 % 16), digitChar (v % 16)]
    ++ if l.overflow then ['0'] else []

/-- A memory-operand token (R87). -/
def renderMem (off : Lit) (b : Nat) : List Char := renderLit off ++ '(' :: renderReg b ++ [')']

/-- The mnemonic and operand tokens of an instruction (R92); none for NOP, the blank line. -/
def Instr.tokens : Instr → List (List Char)
  | .nop => []
  | .add d s t => [Mnemonic.add.text, renderReg d, renderReg s, renderReg t]
  | .addi d s imm => [Mnemonic.addi.text, renderReg d, renderReg s, renderLit imm]
  | .sub d s t => [Mnemonic.sub.text, renderReg d, renderReg s, renderReg t]
  | .subi d s imm => [Mnemonic.subi.text, renderReg d, renderReg s, renderLit imm]
  | .mul d s t => [Mnemonic.mul.text, renderReg d, renderReg s, renderReg t]
  | .mulu d s t => [Mnemonic.mulu.text, renderReg d, renderReg s, renderReg t]
  | .div d s t => [Mnemonic.div.text, renderReg d, renderReg s, renderReg t]
  | .divu d s t => [Mnemonic.divu.text, renderReg d, renderReg s, renderReg t]
  | .and d s t => [Mnemonic.and.text, renderReg d, renderReg s, renderReg t]
  | .andi d s imm => [Mnemonic.andi.text, renderReg d, renderReg s, renderLit imm]
  | .or d s t => [Mnemonic.or.text, renderReg d, renderReg s, renderReg t]
  | .ori d s imm => [Mnemonic.ori.text, renderReg d, renderReg s, renderLit imm]
  | .xor d s t => [Mnemonic.xor.text, renderReg d, renderReg s, renderReg t]
  | .xori d s imm => [Mnemonic.xori.text, renderReg d, renderReg s, renderLit imm]
  | .nor d s t => [Mnemonic.nor.text, renderReg d, renderReg s, renderReg t]
  | .sll d s t => [Mnemonic.sll.text, renderReg d, renderReg s, renderReg t]
  | .srl d s t => [Mnemonic.srl.text, renderReg d, renderReg s, renderReg t]
  | .mfhi d => [Mnemonic.mfhi.text, renderReg d]
  | .lw t off b => [Mnemonic.lw.text, renderReg t, renderMem off b]
  | .li d imm => [Mnemonic.li.text, renderReg d, renderLit imm]
  | .lui d imm => [Mnemonic.lui.text, renderReg d, renderLit imm]
  | .sw t off b => [Mnemonic.sw.text, renderReg t, renderMem off b]
  | .beq a b tgt => [Mnemonic.beq.text, renderReg a, renderReg b, renderLit tgt]
  | .bne a b tgt => [Mnemonic.bne.text, renderReg a, renderReg b, renderLit tgt]
  | .sllImm d s imm => [Mnemonic.sll.text, renderReg d, renderReg s, renderLit imm]
  | .srlImm d s imm => [Mnemonic.srl.text, renderReg d, renderReg s, renderLit imm]

/-- Operand tokens separated by a comma and a space (R99). -/
def joinOperands : List (List Char) → List Char
  | [] => []
  | [t] => t
  | t :: ts => t ++ ',' :: ' ' :: joinOperands ts

/-- The encoder of the normative, textual encoding (D1): one source line for each instruction (R92, R99). -/
def renderLine (i : Instr) : List Char :=
  match i.tokens with
  | [] => []
  | m :: ops => m ++ ' ' :: joinOperands ops

/-- The `op` number of R98. -/
def Instr.op : Instr → Nat
  | .nop => 0
  | .add _ _ _ => 1
  | .addi _ _ _ => 2
  | .sub _ _ _ => 3
  | .subi _ _ _ => 4
  | .mul _ _ _ => 5
  | .mulu _ _ _ => 6
  | .div _ _ _ => 7
  | .divu _ _ _ => 8
  | .and _ _ _ => 9
  | .andi _ _ _ => 10
  | .or _ _ _ => 11
  | .ori _ _ _ => 12
  | .xor _ _ _ => 13
  | .xori _ _ _ => 14
  | .nor _ _ _ => 15
  | .sll _ _ _ => 16
  | .srl _ _ _ => 17
  | .mfhi _ => 18
  | .lw _ _ _ => 19
  | .li _ _ => 20
  | .lui _ _ => 21
  | .sw _ _ _ => 22
  | .beq _ _ _ => 23
  | .bne _ _ _ => 24
  | .sllImm _ _ _ => 25
  | .srlImm _ _ _ => 26

/-- A word with `op` in bits 31:26, and the fields at bits 25:21, 20:16 and below. -/
def imageWord (op x y low : Nat) : BitVec 32 := BitVec.ofNat 32 (op * 2 ^ 26 + x * 2 ^ 21 + y * 2 ^ 16 + low)

/-- The encoder of the binary image (R98): the word of a well-formed instruction. -/
def encode (i : Instr) : BitVec 32 :=
  match i with
  | .nop => 0
  | .add d s t | .sub d s t | .mul d s t | .mulu d s t | .div d s t | .divu d s t
  | .and d s t | .or d s t | .xor d s t | .nor d s t | .sll d s t | .srl d s t =>
      imageWord i.op d s (t * 2 ^ 11)
  | .addi d s imm | .subi d s imm | .andi d s imm | .ori d s imm | .xori d s imm
  | .sllImm d s imm | .srlImm d s imm => imageWord i.op d s imm.value.toNat
  | .mfhi d => imageWord i.op d 0 0
  | .lw t off b | .sw t off b => imageWord i.op t b off.value.toNat
  | .li d imm | .lui d imm => imageWord i.op d 0 imm.value.toNat
  | .beq a b tgt | .bne a b tgt => imageWord i.op a b tgt.value.toNat

end Sys2Proof
end

