-- ==== Sys2Proof/Machine/State.lean ====
section
/-! DEFINITION. The state of the core as plain data (10_state.md; INVENTORY.md, State), the reasons a step can stop, and
the power-on state (10_state.md R41; 70_reset_and_hazards.md R269). -/

namespace Sys2Proof.Machine

/-- The five report kinds of R231: recoverable error notifications, never stops. -/
inductive Report where
  | invalidRegisterIndex
  | memoryOutOfBounds
  | unalignedOversizeAccess
  | divisionByZero
  | immediateOverflow
deriving DecidableEq, Repr

/-- The five stages (00_scope.md R11). -/
inductive Stage where
  | writeBack | memory | execute | decode | fetch
deriving DecidableEq, Repr

/-- The run states of R36. -/
inductive RunState where
  | idle | running | steppingOnce | halted
deriving DecidableEq, Repr

/-- Which halt test succeeded: R241 asks a model to let its caller tell the two apart. -/
inductive HaltCause where
  /-- The pc was past the end and all latches held NOP: the program has finished. -/
  | drained
  /-- The cycle ceiling was reached: the program has not finished. -/
  | ceiling
deriving DecidableEq, Repr

/-- What latch F holds of a fetched line that is not blank: "only `address` and `raw` are meaningful" (R33). -/
structure FetchRecord where
  address : Int
  raw : Line
deriving DecidableEq, Repr

/-- The `opcode` field (R31): a known mnemonic with its operand tokens, or the token 0 of an unknown mnemonic. -/
inductive Opcode where
  | known (i : Instr)
  | unknown (mnemonic : List Char)
deriving DecidableEq, Repr

/-- The `rt` field (R31): "32-bit value, or for load/store lines the effective address" (R130). -/
inductive Rt where
  | value (w : Word)
  | address (a : Int)
deriving DecidableEq, Repr

/-- The Instruction Record of latches D, E and M (R31). A field no rule assigns holds 0 and is read by no rule
(R33; U14 permits the 0; log 15). -/
structure Record where
  /-- The line address the text was fetched from. -/
  address : Int
  /-- The original source text of the line. -/
  raw : Line
  opcode : Opcode
  /-- The index token 1 spells; the write-back destination. -/
  rd : Nat
  /-- The resolved second operand. -/
  rs : Word
  /-- The resolved third operand, or the effective address. -/
  rt : Rt
  /-- "used by no defined instruction" (R31, D35). -/
  immediate : Imm16
  /-- "the value computed by execute, consumed by memory/write-back". -/
  result : Word
  /-- The effective address of a load/store line, not reduced mod 2^32. -/
  memoryAddress : Int
  /-- The store data snapshot of a load/store line. -/
  memoryValue : Word
  /-- The contents of register `rd` of a four-token line at decode. -/
  branchComparand : Word
deriving DecidableEq, Repr

/-- The data memory: the bytes that are not zero, by strictly rising address (`Memory.wf`). An unlisted address
reads as 0, its reset value (20_memory.md R50). -/
abbrev Memory := List Host.Cell

/-- The 32 registers of R20. -/
abbrev Registers := Vector Word 32

/-- The state of the core. A latch is `none` where it holds the NOP sentinel (R30, R32). -/
structure State where
  /-- The parameters, fixed for the machine (R5); not state of the spec, log 1. -/
  config : Config
  /-- R[0..31]; R[0] is hard-wired zero (R20). -/
  regs : Registers
  /-- HI (R25). -/
  hi : Word
  /-- The line address the next IF evaluation fetches (R26). -/
  pc : Int
  /-- The Program Store (R29). -/
  prog : List Line
  /-- F, read by DE (R30). -/
  latchF : Option FetchRecord
  /-- D, read by EX (R30). -/
  latchD : Option Record
  /-- E, read by MEM (R30). -/
  latchE : Option Record
  /-- M, read by WB (R30). -/
  latchM : Option Record
  /-- B[0 .. MEM_BYTES-1] (R50). -/
  mem : Memory
  /-- The cycle counter (R35). -/
  cycles : Nat
  /-- The run state (R36). -/
  runState : RunState
  /-- The output currentLine (R37). -/
  currentLine : Option Int
  /-- The register baseline (R39). -/
  baselineRegs : Registers
  /-- The memory baseline (R39). -/
  baselineMem : Memory
  /-- The model's own: the stage `exec` evaluates; between cycles the first one, write-back (log 8). -/
  stage : Stage
  /-- The reports of the last cycle or host operation (R38), oldest first (log 9). -/
  reports : List Report
  /-- The sticky list of all reports (R248), oldest first (log 9). -/
  reportLog : List Report
  /-- The model's own: why the core is halted (R241, log 10). -/
  haltCause : Option HaltCause
deriving DecidableEq, Repr

/-- Why a step ends in a fault: only the two policies that tell a model to flag a construct. Both are safe (the
machine stops where the hardware goes on) and neither is the default. -/
inductive Fault where
  /-- HAZARD_POLICY = fault (U1), raised by the decode stage: a register read one or two slots after its producer. Safe. -/
  | registerHazard
  /-- BRANCH_POLICY = fault (U2), raised by the execute stage of BEQ and BNE: a taken branch whose delay slot is not
  blank. Safe. -/
  | delaySlotNotBlank
deriving DecidableEq, Repr

/-- Why a step is refused. -/
inductive Refusal where
  /-- Raised by `exec` for an instruction with no meaning yet; safe. -/
  | notModelled (mnemonic : String)
  /-- R94 to R96: "A model shall refuse such a line"; raised by the decode stage. Safe. -/
  | illFormedLine (why : IllFormed)
  /-- SHIFT_POLICY = refuse (U7), raised by the execute stage of SLL and SRL for an amount of 32 or more; not the
  default. Safe. -/
  | shiftAmount
deriving DecidableEq, Repr

/-- What a stage, an instruction or a cycle answers. -/
abbrev Result := Host.Outcome State Fault Refusal

/-- Power-on, "the state after `reset()` with an empty Program Store (L = 0) and all-zero baselines" (R269, R41). -/
def State.reset : State where
  config := Config.reference
  regs := Vector.replicate 32 0
  hi := 0
  pc := 0
  prog := []
  latchF := none
  latchD := none
  latchE := none
  latchM := none
  mem := []
  cycles := 0
  runState := .idle
  currentLine := none
  baselineRegs := Vector.replicate 32 0
  baselineMem := []
  stage := .writeBack
  reports := []
  reportLog := []
  haltCause := none

end Sys2Proof.Machine
end

