-- ==== Sys2Proof/Machine/Ops.lean ====
section
/-! DEFINITION. The named operations over registers, memory and latches: reports (60_exceptions.md R230, R231), register
ports (10_state.md R22, R23), memory accesses (20_memory.md R53 to R58), fetch (40_pipeline_engine.md R132) and the parts
of the stages that are common to all instructions. The core takes no exception and returns from none (R236, R239,
R240): a report is all that happens in its place. -/

namespace Sys2Proof.Machine

/-- Continue with the next state; a fault or a refusal ends the cycle. -/
def Result.andThen (r : Result) (f : State → Result) : Result :=
  match r with
  | .next s => f s
  | .fault e => .fault e
  | .refused e => .refused e

/-- The next state, if there is one. -/
def Result.state? : Result → Option State
  | .next s => some s
  | _ => none

/-! ## Reports -/

/-- The code column of R231. -/
def Report.code : Report → Nat
  | .invalidRegisterIndex => 1
  | .memoryOutOfBounds => 2
  | .unalignedOversizeAccess => 3
  | .divisionByZero => 4
  | .immediateOverflow => 5

/-- `report K` for each kind in order (R10, R230): appended to the list of this cycle and to the sticky list (R248).
Nothing else changes, whatever the kinds. -/
def State.report (s : State) (ks : List Report) : State :=
  { s with reports := s.reports ++ ks, reportLog := s.reportLog ++ ks }

/-! ## Register ports -/

/-- `x[i]`, the value of the read port (R22). -/
def State.readReg (s : State) (i : Nat) : Word :=
  if i = 0 then 0 else if h : i < 32 then s.regs[i] else 0

/-- The reports of an access through the read or the write port (R22, R23, R232): an index of 0 is never an error. -/
def registerReports (i : Nat) : List Report := if i < 32 then [] else [.invalidRegisterIndex]

/-- The write port `x[i] <- v` (R23): nothing at index 0, a report at 32 or more. -/
def State.writeReg (s : State) (i : Nat) (v : Word) : State :=
  if i = 0 then s
  else if h : i < 32 then { s with regs := s.regs.set i v }
  else s.report (registerReports i)

/-! ## Memory -/

/-- `B[a]`: the listed byte, or 0. -/
def Memory.byteAt : Memory → Nat → Byte
  | [], _ => 0
  | (k, x) :: m, a => if k = a then x else Memory.byteAt m a

/-- `B[a] <- v`, keeping the canonical form: rising addresses, no zero listed. -/
def Memory.setByte : Memory → Nat → Byte → Memory
  | [], a, v => if v = 0 then [] else [(a, v)]
  | (k, x) :: m, a, v =>
    if a < k then (if v = 0 then (k, x) :: m else (a, v) :: (k, x) :: m)
    else if a = k then (if v = 0 then m else (a, v) :: m)
    else (k, x) :: Memory.setByte m a v

/-- The canonical form above a lower bound: addresses strictly rising from `lo`, below `size`, no zero byte. -/
def Memory.wfFrom (size : Nat) : Nat → Memory → Bool
  | _, [] => true
  | lo, (k, x) :: m => decide (lo ≤ k) && decide (k < size) && x != 0 && Memory.wfFrom size (k + 1) m

/-- The canonical form of a data memory of `size` bytes. -/
def Memory.wf (size : Nat) (m : Memory) : Bool := Memory.wfFrom size 0 m

/-- The bounds check of R56: the one report of a failing access, or none. -/
def boundsReport (memBytes : Nat) (a : Int) : Option Report :=
  if a < 0 ∨ (memBytes : Int) ≤ a then some .memoryOutOfBounds
  else if (memBytes : Int) < a + 4 then some .unalignedOversizeAccess
  else none

/-- The four bytes from `a` on as a little-endian word (R53). -/
def Memory.wordAt (m : Memory) (a : Nat) : Word :=
  m.byteAt (a + 3) ++ m.byteAt (a + 2) ++ m.byteAt (a + 1) ++ m.byteAt a

/-- The four bytes of `w` stored from `a` on, low byte first (R53). -/
def Memory.setWord (m : Memory) (a : Nat) (w : Word) : Memory :=
  (((m.setByte a (w.extractLsb' 0 8)).setByte (a + 1) (w.extractLsb' 8 8)).setByte (a + 2)
    (w.extractLsb' 16 8)).setByte (a + 3) (w.extractLsb' 24 8)

/-- The value of `readWord` (R57): 0 for a failing access. -/
def State.readWord (s : State) (a : Int) : Word :=
  match boundsReport s.config.memBytes a with
  | some _ => 0
  | none => s.mem.wordAt a.toNat

/-- The memory after `writeWord` (R58): a failing write is dropped. -/
def State.storeWord (s : State) (a : Int) (w : Word) : Memory :=
  match boundsReport s.config.memBytes a with
  | some _ => s.mem
  | none => s.mem.setWord a.toNat w

/-- The reports of a word access at `a` (R56, R233). -/
def State.accessReports (s : State) (a : Int) : List Report := (boundsReport s.config.memBytes a).toList

/-! ## Fetch -/

/-- The Program Store entry at the pc, if `0 <= pc < L` (R132). -/
def State.lineAtPc (s : State) : Option Line := if 0 ≤ s.pc then s.prog[s.pc.toNat]? else none

/-- The IF stage (R132), the same for every line. -/
def fetchLine (s : State) : Result :=
  match s.lineAtPc with
  | some l =>
    .next { s with
      latchF := if l.isBlank then none else some { address := s.pc, raw := l }
      currentLine := some s.pc
      pc := s.pc + 1 }
  | none => .next { s with latchF := none, currentLine := none, pc := s.pc + 1 }

/-! ## The parts of the other stages that are common to all instructions -/

/-- A new record for a fetched line (R127), no operand field assigned yet. -/
def FetchRecord.fresh (f : FetchRecord) (op : Opcode) : Record where
  address := f.address
  raw := f.raw
  opcode := op
  rd := 0
  rs := 0
  rt := .value 0
  immediate := 0
  result := 0
  memoryAddress := 0
  memoryValue := 0
  branchComparand := 0

/-- EX of an instruction that computes `result` from its record and changes nothing else (R125). -/
def executeResult (f : Record → Word) (s : State) : Result :=
  match s.latchD with
  | none => .next { s with latchE := none }
  | some r => .next { s with latchE := some { r with result := f r } }

/-- EX that passes the record unchanged (R126). -/
def executePass (s : State) : Result := .next { s with latchE := s.latchD }

/-- MEM of every opcode but LW and SW: only moves the record from E to M (R124). -/
def memoryPass (s : State) : Result := .next { s with latchM := s.latchE }

/-- WB of an instruction of the write-back set: `x[rd] <- result` (R122). -/
def writeBackResult (s : State) : Result :=
  match s.latchM with
  | none => .next s
  | some r => .next (s.writeReg r.rd r.result)

/-- WB of an instruction outside the write-back set: nothing (R122, R123). -/
def writeBackNone (s : State) : Result := .next s

/-- The life of an instruction (R137): its part in the stage that is evaluated. Fetch is the same for all. -/
def inStage (de ex mem wb : State → Result) (s : State) : Result :=
  match s.stage with
  | .fetch => fetchLine s
  | .decode => de s
  | .execute => ex s
  | .memory => mem s
  | .writeBack => wb s

end Sys2Proof.Machine
end

