-- ==== Sys2Proof/Machine/Flags.lean ====
section
/-! DEFINITION. The core has no flags, condition codes, carry or overflow bits (10_state.md R40), so no instruction
computes one. What stands here are the conditions the stages test: the branch conditions (43_branch.md R201, R202), the
shift-amount test of SHIFT_POLICY (93_implementation_defined.md U7), the read-after-write test of HAZARD_POLICY (U1) and
the write-back set (40_pipeline_engine.md R123). -/

namespace Sys2Proof.Machine

/-- The third operand as a 32-bit value; an effective address reduced to 32 bits, which no rule reads. -/
def Rt.word : Rt → Word
  | .value w => w
  | .address a => u32 a

/-- BEQ is taken when the compared values are equal (R201). -/
def beqTaken (r : Record) : Bool := r.rs == r.branchComparand

/-- BNE is taken when the compared values differ (R202, D7). -/
def bneTaken (r : Record) : Bool := r.rs != r.branchComparand

/-- Under SHIFT_POLICY = refuse an amount of 32 or more has no result (U7). -/
def shiftRefused (c : Config) (amount : Word) : Bool := c.shiftPolicy == .refuse && decide (32 ≤ amount.toNat)

end Sys2Proof.Machine

namespace Sys2Proof

/-- The write-back set, "the fixed list of opcodes that produce a register-file mutation" (R123). -/
def Instr.writesBack : Instr → Bool
  | .nop | .sw _ _ _ | .beq _ _ _ | .bne _ _ _ => false
  | .add _ _ _ | .addi _ _ _ | .sub _ _ _ | .subi _ _ _ | .mul _ _ _ | .mulu _ _ _ | .div _ _ _ | .divu _ _ _
  | .and _ _ _ | .andi _ _ _ | .or _ _ _ | .ori _ _ _ | .xor _ _ _ | .xori _ _ _ | .nor _ _ _
  | .sll _ _ _ | .srl _ _ _ | .sllImm _ _ _ | .srlImm _ _ _ | .mfhi _ | .lw _ _ _ | .li _ _ | .lui _ _ => true

/-- The registers an instruction reads at decode and uses: token 2 and 3 register operands, both registers a branch
compares, the base of LW and SW, the data register of SW (R275). -/
def Instr.sources : Instr → List Nat
  | .nop | .mfhi _ | .li _ _ | .lui _ _ => []
  | .add _ s t | .sub _ s t | .mul _ s t | .mulu _ s t | .div _ s t | .divu _ s t
  | .and _ s t | .or _ s t | .xor _ s t | .nor _ s t | .sll _ s t | .srl _ s t => [s, t]
  | .addi _ s _ | .subi _ s _ | .andi _ s _ | .ori _ s _ | .xori _ s _ | .sllImm _ s _ | .srlImm _ s _ => [s]
  | .lw _ _ b => [b]
  | .sw t _ b => [b, t]
  | .beq a b _ | .bne a b _ => [a, b]

end Sys2Proof

namespace Sys2Proof.Machine

/-- A latch holds an instruction that will write register `k` and has not yet. -/
def pendingWrite (latch : Option Record) (k : Nat) : Bool :=
  match latch with
  | none => false
  | some r =>
    match r.opcode with
    | .known i => i.writesBack && r.rd == k && k != 0 && decide (k < 32)
    | .unknown _ => false

/-- In DE, after the same cycle's MEM and EX: the instruction reads a register whose producer stands one slot before
it (latch E) or two (latch M), the distances that read the old value (R275, U1). -/
def State.hazard (s : State) (i : Instr) : Bool :=
  i.sources.any fun k => pendingWrite s.latchE k || pendingWrite s.latchM k

end Sys2Proof.Machine
end

