-- ==== Sys2Proof/Machine/Operands.lean ====
section
/-! DEFINITION. The decode stage: operand resolution (40_pipeline_engine.md R128), effective addresses (44_load_store.md
R210) and the four shapes (R129 to R131), with the order of their reports (60_exceptions.md R232, R235, R238). -/

namespace Sys2Proof.Machine

/-- A token 2 or 3 that is resolved to a value (R128). -/
inductive Operand where
  | reg (n : Nat)
  | lit (l : Lit)
deriving DecidableEq, Repr

/-- The value of an operand: register contents, or the literal zero-extended (R128). -/
def State.resolve (s : State) : Operand → Word
  | .reg n => s.readReg n
  | .lit l => l.word

/-- The report of a literal of more than 4 digits, once each time it is resolved (R86, R235). -/
def literalReports (l : Lit) : List Report := if l.overflow then [.immediateOverflow] else []

/-- The reports of resolving an operand (R128, R238). -/
def resolveReports : Operand → List Report
  | .reg n => registerReports n
  | .lit l => literalReports l

/-- `EA = x[b] + sext16(off)`, an integer that is not reduced mod 2^32 (R210, D18). -/
def State.effectiveAddress (s : State) (b : Nat) (off : Lit) : Int := (s.readReg b).toNat + off.value.toInt

/-- DE of a line of which `i` is the reading: NOP passes (R127); under HAZARD_POLICY = fault a read too close to its
producer is flagged (U1); else D receives the record `fill` makes and the reads' reports are made. -/
def decodeWith (i : Instr) (fill : Record → Record) (reps : List Report) (s : State) : Result :=
  match s.latchF with
  | none => .next { s with latchD := none }
  | some f =>
    if s.config.hazardPolicy = .fault ∧ s.hazard i = true then .fault .registerHazard
    else .next ({ s with latchD := some (fill (f.fresh (.known i))) }.report reps)

/-- R129, shape S4 `OP tok1, tok2, tok3`: branchComparand, then token 2, then token 3. -/
def decodeS4 (i : Instr) (d : Nat) (tok2 tok3 : Operand) (s : State) : Result :=
  decodeWith i
    (fun r => { r with
      rd := d, branchComparand := s.readReg d, rs := s.resolve tok2, rt := .value (s.resolve tok3) })
    (registerReports d ++ resolveReports tok2 ++ resolveReports tok3) s

/-- R130, shape S3M `OP tok1, off($b)`: the offset, the base register, then the register of token 1. The report of the
offset comes first, where the token is taken apart: DEDUCED, log 12. -/
def decodeS3M (i : Instr) (t : Nat) (off : Lit) (b : Nat) (s : State) : Result :=
  decodeWith i
    (fun r => { r with
      rd := t, memoryAddress := s.effectiveAddress b off, rt := .address (s.effectiveAddress b off),
      memoryValue := s.readReg t })
    (literalReports off ++ registerReports b ++ registerReports t) s

/-- R131, shape S3 `OP tok1, tok2`. -/
def decodeS3 (i : Instr) (d : Nat) (tok2 : Operand) (s : State) : Result :=
  decodeWith i (fun r => { r with rd := d, rs := s.resolve tok2 }) (resolveReports tok2) s

/-- R131, shape S2 with a register token: reads nothing. -/
def decodeS2 (i : Instr) (d : Nat) (s : State) : Result :=
  decodeWith i (fun r => { r with rd := d }) [] s

/-- DE of the NOP sentinel (R127, R222). -/
def decodeNop (s : State) : Result := .next { s with latchD := none }

/-- DE of an unknown mnemonic: the record carries its text and opcode; no reads, no reports (R93, R127). -/
def decodeUnknown (mnemonic : List Char) (s : State) : Result :=
  match s.latchF with
  | none => .next { s with latchD := none }
  | some f => .next { s with latchD := some (f.fresh (.unknown mnemonic)) }

end Sys2Proof.Machine
end

