-- ==== Sys2Proof/Machine/Arithmetic.lean ====
section
/-! DEFINITION. ADD, ADDI, SUB, SUBI, MUL, MULU, DIV, DIVU, MFHI (41_arithmetic.md R160 to R170). Operands are the exact
integers, the result is reduced mod 2^32 at the end (R160). -/

namespace Sys2Proof.Machine

/-! ## Results of the execute rules -/

/-- R161. -/
def addResult (r : Record) : Word := u32 ((r.rs.toNat : Int) + r.rt.word.toNat)

/-- R162: the literal is sign-extended. -/
def addiResult (r : Record) : Word := u32 ((r.rs.toNat : Int) + sext16 r.rt.word)

/-- R163. -/
def subResult (r : Record) : Word := u32 ((r.rs.toNat : Int) - r.rt.word.toNat)

/-- R164: the literal is sign-extended. -/
def subiResult (r : Record) : Word := u32 ((r.rs.toNat : Int) - sext16 r.rt.word)

/-- R165: the low 32 bits of the exact signed product (D30). -/
def mulResult (r : Record) : Word := u32 (s32 r.rs * s32 r.rt.word)

/-- R167: the low 32 bits of the exact unsigned product (D30). -/
def muluResult (r : Record) : Word := u32 ((r.rs.toNat : Int) * r.rt.word.toNat)

/-- `q = floor(a / b)` of R166; 0 for a zero divisor. -/
def floorQuotient (a b : Int) : Int := Int.fdiv a b

/-- The quotient DIV delivers (R166). -/
def divResult (r : Record) : Word :=
  if s32 r.rt.word = 0 then 0 else u32 (floorQuotient (s32 r.rs) (s32 r.rt.word))

/-- U8: operands of opposite signs and an inexact division. -/
def remainderInDoubt (a b : Int) : Bool := decide (a * b < 0) && decide (a - floorQuotient a b * b ≠ 0)

/-- What DIV leaves in HI (R166): 0 for a zero divisor (D15), else the floored remainder (D14); under
DIV_REMAINDER = any value a free value where the convention is in doubt (U8, log 5). -/
def divHigh (c : Config) (r : Record) : Word :=
  if s32 r.rt.word = 0 then 0
  else if c.divRemainder = .anyValue ∧ remainderInDoubt (s32 r.rs) (s32 r.rt.word) = true then
    Config.freeRemainder r.rs r.rt.word
  else u32 (s32 r.rs - floorQuotient (s32 r.rs) (s32 r.rt.word) * s32 r.rt.word)

/-- R168: the unsigned quotient; 0 for a zero divisor. -/
def divuResult (r : Record) : Word :=
  if r.rt.word.toNat = 0 then 0 else u32 ((r.rs.toNat / r.rt.word.toNat : Nat) : Int)

/-- The report of a division (R234). -/
def divisionReports (r : Record) : List Report := if r.rt.word = 0 then [.divisionByZero] else []

/-! ## EX of the instructions that do more than compute `result` -/

/-- EX of DIV: result, HI and the report (R166). -/
def executeDiv (s : State) : Result :=
  match s.latchD with
  | none => .next { s with latchE := none }
  | some r =>
    .next ({ s with latchE := some { r with result := divResult r }, hi := divHigh s.config r }.report
      (divisionReports r))

/-- EX of DIVU: result and the report; HI is not written (R168, D16). -/
def executeDivu (s : State) : Result :=
  match s.latchD with
  | none => .next { s with latchE := none }
  | some r => .next ({ s with latchE := some { r with result := divuResult r } }.report (divisionReports r))

/-! ## The instructions -/

/-- R161, ADD. -/
def execAdd (d a b : Nat) (s : State) : Result :=
  inStage (decodeS4 (.add d a b) d (.reg a) (.reg b)) (executeResult addResult) memoryPass writeBackResult s

/-- R162, ADDI. -/
def execAddi (d a : Nat) (imm : Lit) (s : State) : Result :=
  inStage (decodeS4 (.addi d a imm) d (.reg a) (.lit imm)) (executeResult addiResult) memoryPass writeBackResult s

/-- R163, SUB. -/
def execSub (d a b : Nat) (s : State) : Result :=
  inStage (decodeS4 (.sub d a b) d (.reg a) (.reg b)) (executeResult subResult) memoryPass writeBackResult s

/-- R164, SUBI. -/
def execSubi (d a : Nat) (imm : Lit) (s : State) : Result :=
  inStage (decodeS4 (.subi d a imm) d (.reg a) (.lit imm)) (executeResult subiResult) memoryPass writeBackResult s

/-- R165, MUL. -/
def execMul (d a b : Nat) (s : State) : Result :=
  inStage (decodeS4 (.mul d a b) d (.reg a) (.reg b)) (executeResult mulResult) memoryPass writeBackResult s

/-- R167, MULU. -/
def execMulu (d a b : Nat) (s : State) : Result :=
  inStage (decodeS4 (.mulu d a b) d (.reg a) (.reg b)) (executeResult muluResult) memoryPass writeBackResult s

/-- R166, DIV. -/
def execDiv (d a b : Nat) (s : State) : Result :=
  inStage (decodeS4 (.div d a b) d (.reg a) (.reg b)) executeDiv memoryPass writeBackResult s

/-- R168, DIVU. -/
def execDivu (d a b : Nat) (s : State) : Result :=
  inStage (decodeS4 (.divu d a b) d (.reg a) (.reg b)) executeDivu memoryPass writeBackResult s

/-- R170, MFHI: HI is read in EX. -/
def execMfhi (d : Nat) (s : State) : Result :=
  inStage (decodeS2 (.mfhi d) d) (executeResult fun _ => s.hi) memoryPass writeBackResult s

end Sys2Proof.Machine
end

