-- ==== Sys2Proof/Machine/Branch.lean ====
section
/-! DEFINITION. BEQ and BNE (43_branch.md R200 to R204). -/

namespace Sys2Proof.Machine

/-- The pc a taken branch assigns: `sext16(target) - 1` (R201, D8). -/
def branchPc (r : Record) : Int := sext16 r.rt.word - 1

/-- EX of a branch (R201, R202): a taken one writes the pc before the same cycle's IF (R203). Latch F still holds the
line of the delay slot; under BRANCH_POLICY = fault a taken branch is flagged unless that slot is blank (U2). -/
def executeBranch (taken : Record → Bool) (s : State) : Result :=
  match s.latchD with
  | none => .next { s with latchE := none }
  | some r =>
    if taken r = true then
      if s.config.branchPolicy = .fault ∧ s.latchF ≠ none then .fault .delaySlotNotBlank
      else .next { s with latchE := some r, pc := branchPc r }
    else .next { s with latchE := some r }

/-- R201, BEQ. -/
def execBeq (a b : Nat) (tgt : Lit) (s : State) : Result :=
  inStage (decodeS4 (.beq a b tgt) a (.reg b) (.lit tgt)) (executeBranch beqTaken) memoryPass writeBackNone s

/-- R202, BNE. -/
def execBne (a b : Nat) (tgt : Lit) (s : State) : Result :=
  inStage (decodeS4 (.bne a b tgt) a (.reg b) (.lit tgt)) (executeBranch bneTaken) memoryPass writeBackNone s

end Sys2Proof.Machine
end

