-- ==== Sys2Proof/Machine/ImmediateLoad.lean ====
section
/-! DEFINITION. LI, LUI and the NOP sentinel (45_immediate_load.md R220 to R222), and the stages of an unknown mnemonic
(R223). -/

namespace Sys2Proof.Machine

/-- R220: bits 31 to 16 are copies of bit 15. -/
def liResult (r : Record) : Word := u32 (sext16 r.rs)

/-- R221: bits 15 to 0 are zero. -/
def luiResult (r : Record) : Word := zext16 r.rs <<< 16

/-- R220, LI. -/
def execLi (d : Nat) (imm : Lit) (s : State) : Result :=
  inStage (decodeS3 (.li d imm) d (.lit imm)) (executeResult liResult) memoryPass writeBackResult s

/-- R221, LUI. -/
def execLui (d : Nat) (imm : Lit) (s : State) : Result :=
  inStage (decodeS3 (.lui d imm) d (.lit imm)) (executeResult luiResult) memoryPass writeBackResult s

/-- R222, the NOP sentinel: every stage passes it to the next latch and does nothing else. -/
def execNop (s : State) : Result :=
  inStage decodeNop (fun s => .next { s with latchE := none }) (fun s => .next { s with latchM := none })
    writeBackNone s

/-- R223, R93: an unknown mnemonic occupies its slot in every latch and has no other effect. -/
def passUnknown (mnemonic : List Char) (s : State) : Result :=
  inStage (decodeUnknown mnemonic) executePass memoryPass writeBackNone s

end Sys2Proof.Machine
end

