-- ==== Sys2Proof/Machine/LoadStore.lean ====
section
/-! DEFINITION. LW and SW (44_load_store.md R210 to R214; 40_pipeline_engine.md R124, R126). -/

namespace Sys2Proof.Machine

/-- MEM of LW: `result <- MemRead(memoryAddress, 4)`; a failing read delivers 0 and reports (R124, R211, D34). -/
def memoryLoad (s : State) : Result :=
  match s.latchE with
  | none => .next { s with latchM := none }
  | some r =>
    .next ({ s with latchM := some { r with result := s.readWord r.memoryAddress } }.report
      (s.accessReports r.memoryAddress))

/-- MEM of SW: `MemWrite(memoryAddress, 4, memoryValue)`; a failing write is dropped and reports (R124, R212). -/
def memoryStore (s : State) : Result :=
  match s.latchE with
  | none => .next { s with latchM := none }
  | some r =>
    .next ({ s with latchM := some r, mem := s.storeWord r.memoryAddress r.memoryValue }.report
      (s.accessReports r.memoryAddress))

/-- R211, LW. -/
def execLw (t : Nat) (off : Lit) (b : Nat) (s : State) : Result :=
  inStage (decodeS3M (.lw t off b) t off b) executePass memoryLoad writeBackResult s

/-- R212, SW. -/
def execSw (t : Nat) (off : Lit) (b : Nat) (s : State) : Result :=
  inStage (decodeS3M (.sw t off b) t off b) executePass memoryStore writeBackNone s

end Sys2Proof.Machine
end

