-- ==== Sys2Proof/Machine/LogicShift.lean ====
section
/-! DEFINITION. AND, ANDI, OR, ORI, XOR, XORI, NOR, SLL, SRL (42_logical_shift.md R180 to R189). -/

namespace Sys2Proof.Machine

/-! ## Results of the execute rules -/

/-- R181. -/
def andResult (r : Record) : Word := r.rs &&& r.rt.word

/-- R182: the literal is zero-extended. -/
def andiResult (r : Record) : Word := r.rs &&& zext16 r.rt.word

/-- R183. -/
def orResult (r : Record) : Word := r.rs ||| r.rt.word

/-- R184: the literal is zero-extended. -/
def oriResult (r : Record) : Word := r.rs ||| zext16 r.rt.word

/-- R185. -/
def xorResult (r : Record) : Word := r.rs ^^^ r.rt.word

/-- R186: the literal is zero-extended. -/
def xoriResult (r : Record) : Word := r.rs ^^^ zext16 r.rt.word

/-- R187. -/
def norResult (r : Record) : Word := ~~~(r.rs ||| r.rt.word)

/-- `n <- rt[4:0]` (R188, R189, D17). -/
def shiftAmount (r : Record) : Nat := field r.rt.word 0 5

/-- R188: zeros enter at bit 0. -/
def sllResult (r : Record) : Word := r.rs <<< shiftAmount r

/-- R189: zeros enter at bit 31. -/
def srlResult (r : Record) : Word := r.rs >>> shiftAmount r

/-- EX of a shift (R188, R189), refused for an amount of 32 or more under SHIFT_POLICY = refuse only (U7). -/
def executeShift (f : Record → Word) (s : State) : Result :=
  match s.latchD with
  | none => .next { s with latchE := none }
  | some r =>
    if shiftRefused s.config r.rt.word = true then .refused .shiftAmount
    else .next { s with latchE := some { r with result := f r } }

/-! ## The instructions -/

/-- R181, AND. -/
def execAnd (d a b : Nat) (s : State) : Result :=
  inStage (decodeS4 (.and d a b) d (.reg a) (.reg b)) (executeResult andResult) memoryPass writeBackResult s

/-- R182, ANDI. -/
def execAndi (d a : Nat) (imm : Lit) (s : State) : Result :=
  inStage (decodeS4 (.andi d a imm) d (.reg a) (.lit imm)) (executeResult andiResult) memoryPass writeBackResult s

/-- R183, OR. -/
def execOr (d a b : Nat) (s : State) : Result :=
  inStage (decodeS4 (.or d a b) d (.reg a) (.reg b)) (executeResult orResult) memoryPass writeBackResult s

/-- R184, ORI. -/
def execOri (d a : Nat) (imm : Lit) (s : State) : Result :=
  inStage (decodeS4 (.ori d a imm) d (.reg a) (.lit imm)) (executeResult oriResult) memoryPass writeBackResult s

/-- R185, XOR. -/
def execXor (d a b : Nat) (s : State) : Result :=
  inStage (decodeS4 (.xor d a b) d (.reg a) (.reg b)) (executeResult xorResult) memoryPass writeBackResult s

/-- R186, XORI. -/
def execXori (d a : Nat) (imm : Lit) (s : State) : Result :=
  inStage (decodeS4 (.xori d a imm) d (.reg a) (.lit imm)) (executeResult xoriResult) memoryPass writeBackResult s

/-- R187, NOR. -/
def execNor (d a b : Nat) (s : State) : Result :=
  inStage (decodeS4 (.nor d a b) d (.reg a) (.reg b)) (executeResult norResult) memoryPass writeBackResult s

/-- R188, SLL with a register amount. -/
def execSll (d a b : Nat) (s : State) : Result :=
  inStage (decodeS4 (.sll d a b) d (.reg a) (.reg b)) (executeShift sllResult) memoryPass writeBackResult s

/-- R188, SLL with a literal amount. -/
def execSllImm (d a : Nat) (imm : Lit) (s : State) : Result :=
  inStage (decodeS4 (.sllImm d a imm) d (.reg a) (.lit imm)) (executeShift sllResult) memoryPass writeBackResult s

/-- R189, SRL with a register amount. -/
def execSrl (d a b : Nat) (s : State) : Result :=
  inStage (decodeS4 (.srl d a b) d (.reg a) (.reg b)) (executeShift srlResult) memoryPass writeBackResult s

/-- R189, SRL with a literal amount. -/
def execSrlImm (d a : Nat) (imm : Lit) (s : State) : Result :=
  inStage (decodeS4 (.srlImm d a imm) d (.reg a) (.lit imm)) (executeShift srlResult) memoryPass writeBackResult s

end Sys2Proof.Machine
end

