-- ==== Sys2Proof/Machine/Dispatch.lean ====
section
/-! DEFINITION. One arm per constructor of Instr: the part the instruction has in the stage the state names. -/

namespace Sys2Proof.Machine

/-- The part instruction `i` has in the stage `s.stage` of a cycle (R137): fetch, decode, execute, memory, write-back. -/
def exec (i : Instr) (s : State) : Host.Outcome State Fault Refusal :=
  match i with
  | .nop => Sys2Proof.Machine.execNop s
  -- arithmetic (41_arithmetic.md)
  | .add d a b => Sys2Proof.Machine.execAdd d a b s
  | .addi d a imm => Sys2Proof.Machine.execAddi d a imm s
  | .sub d a b => Sys2Proof.Machine.execSub d a b s
  | .subi d a imm => Sys2Proof.Machine.execSubi d a imm s
  | .mul d a b => Sys2Proof.Machine.execMul d a b s
  | .mulu d a b => Sys2Proof.Machine.execMulu d a b s
  | .div d a b => Sys2Proof.Machine.execDiv d a b s
  | .divu d a b => Sys2Proof.Machine.execDivu d a b s
  -- logical and shift (42_logical_shift.md)
  | .and d a b => Sys2Proof.Machine.execAnd d a b s
  | .andi d a imm => Sys2Proof.Machine.execAndi d a imm s
  | .or d a b => Sys2Proof.Machine.execOr d a b s
  | .ori d a imm => Sys2Proof.Machine.execOri d a imm s
  | .xor d a b => Sys2Proof.Machine.execXor d a b s
  | .xori d a imm => Sys2Proof.Machine.execXori d a imm s
  | .nor d a b => Sys2Proof.Machine.execNor d a b s
  | .sll d a b => Sys2Proof.Machine.execSll d a b s
  | .srl d a b => Sys2Proof.Machine.execSrl d a b s
  -- MFHI, loads, stores, immediate loads, branches (41, 44, 45, 43)
  | .mfhi d => Sys2Proof.Machine.execMfhi d s
  | .lw t off b => Sys2Proof.Machine.execLw t off b s
  | .li d imm => Sys2Proof.Machine.execLi d imm s
  | .lui d imm => Sys2Proof.Machine.execLui d imm s
  | .sw t off b => Sys2Proof.Machine.execSw t off b s
  | .beq a b tgt => Sys2Proof.Machine.execBeq a b tgt s
  | .bne a b tgt => Sys2Proof.Machine.execBne a b tgt s
  -- shifts by a literal amount (42_logical_shift.md R188, R189)
  | .sllImm d a imm => Sys2Proof.Machine.execSllImm d a imm s
  | .srlImm d a imm => Sys2Proof.Machine.execSrlImm d a imm s

end Sys2Proof.Machine
end

