-- ==== Sys2Proof/Machine/Pipeline.lean ====
section
/-! DEFINITION. One cycle of the Pipeline Engine (40_pipeline_engine.md R120, R121), the halt test and the halt
transition (R133 to R136). -/

namespace Sys2Proof.Machine

/-- The instruction an Instruction Record is of; an empty latch holds the NOP sentinel (R32). -/
def latchSlot : Option Record → Decoded
  | none => .instr .nop
  | some r =>
    match r.opcode with
    | .known i => .instr i
    | .unknown m => .unknown m

/-- What stands in front of the stage `s.stage`: WB reads M, MEM reads E, EX reads D, DE decodes the line in F, IF reads
the line at the pc, where an address outside the program delivers NOP (R120, R127, R132). -/
def slotAt (s : State) : Decoded :=
  match s.stage with
  | .writeBack => latchSlot s.latchM
  | .memory => latchSlot s.latchE
  | .execute => latchSlot s.latchD
  | .decode =>
    match s.latchF with
    | none => .instr .nop
    | some f => f.raw.decode
  | .fetch =>
    match s.lineAtPc with
    | none => .instr .nop
    | some l => l.decode

/-- One stage of a cycle: `exec` of the instruction in front of it. An unknown mnemonic passes (R223). An ill-formed
line is fetched like any other and has no decode step: R127 "a model that checks at decode gives DE no step for them". -/
def evalStage (k : Stage) (s : State) : Result :=
  match slotAt { s with stage := k } with
  | .instr i => exec i { s with stage := k }
  | .unknown m => passUnknown m { s with stage := k }
  | .illFormed why =>
    if k = .fetch then fetchLine { s with stage := k } else .refused (.illFormedLine why)

/-- "drained": the pc is at or past the end and the four latches hold NOP (R133, D10). -/
def State.drained (s : State) : Bool :=
  decide ((s.prog.length : Int) ≤ s.pc) && s.latchF.isNone && s.latchD.isNone && s.latchE.isNone && s.latchM.isNone

/-- The halt test (R133). -/
def State.haltTest (s : State) : Bool := decide (s.config.ceiling ≤ s.cycles) || s.drained

/-- Latches emptied, pc, cycle counter and currentLine cleared: what a halt, `reset()` and `stop()` share (R41). -/
def State.clearPipeline (s : State) : State :=
  { s with
    latchF := none
    latchD := none
    latchE := none
    latchM := none
    pc := 0
    cycles := 0
    currentLine := none
    stage := .writeBack }

/-- The halt transition (R135); registers, HI, memory, store and baselines are kept. A halt that finds the pipeline
drained has finished its program, at the ceiling too: DESIGN CHOICE, log 10. -/
def State.haltTransition (s : State) : State :=
  { s.clearPipeline with
    runState := .halted
    haltCause := some (if s.drained then .drained else .ceiling) }

/-- The five stages in the fixed order of R120, then the cycle is counted. -/
def evalCycle (s : State) : Result :=
  Result.andThen (evalStage .writeBack s) fun s =>
  Result.andThen (evalStage .memory s) fun s =>
  Result.andThen (evalStage .execute s) fun s =>
  Result.andThen (evalStage .decode s) fun s =>
  Result.andThen (evalStage .fetch s) fun s =>
  .next { s with cycles := s.cycles + 1, stage := .writeBack }

/-- `advanceCycle` (R120): nothing when halted (R136), else the halt transition and nothing else, else one cycle. The
report list starts empty (R38). -/
def advanceCycle (s : State) : Result :=
  if s.runState = .halted then .next { s with reports := [] }
  else if s.haltTest = true then .next { s.haltTransition with reports := [] }
  else evalCycle { s with reports := [] }

/-- Where the next fetch reads: the pc, or line 0 where the pc is negative and no line can stand. -/
def State.fetchIndex (s : State) : Nat := s.pc.toNat

/-- The program with `l` at index `a`, lengthened by blank lines where it is too short. -/
def placeLine (prog : List Line) (a : Nat) (l : Line) : List Line :=
  (prog ++ List.replicate (a + 1 - prog.length) (Line.text [])).set a l

/-- The state with the binary image `w` at the line the next IF evaluation reads, and with that evaluation possible: a
core that is halted or at its ceiling could fetch nothing (log 7). -/
def placeImage (s : State) (w : BitVec 32) : State :=
  { s with
    prog := placeLine s.prog s.fetchIndex (.image w)
    pc := s.fetchIndex
    runState := if s.runState = .halted then .idle else s.runState
    cycles := if s.config.ceiling ≤ s.cycles then 0 else s.cycles }

/-- The state a stage leaves; where the stage stops, the state before it. -/
def afterStage (k : Stage) (s : State) : State := (Result.state? (evalStage k s)).getD s

/-- The latches filled with the line at the pc: F as its fetch leaves it, D, E and M as its decode, execute and memory stage
leave it on the registers, HI and memory of `s`, which are kept. The next cycle performs every part of the instruction: a
cycle of the pipeline runs five parts, of the instructions in front of the five stages (R120, R137; log 7). -/
def primePipeline (s : State) : State :=
  let s := { s with latchF := none, latchD := none, latchE := none, latchM := none, stage := .writeBack }
  let f := (afterStage .fetch s).latchF
  let d := (afterStage .decode { s with latchF := f }).latchD
  let e := (afterStage .execute { s with latchD := d }).latchE
  let m := (afterStage .memory { s with latchE := e }).latchM
  { s with latchF := f, latchD := d, latchE := e, latchM := m }

end Sys2Proof.Machine
end

