-- ==== Sys2Proof/Machine/Step.lean ====
section
/-! DEFINITION. One step of the machine is one evaluation of `advanceCycle` (40_pipeline_engine.md R120): one clock edge
(70_reset_and_hazards.md R272). -/

namespace Sys2Proof.Machine

/-- One cycle (R120). -/
def step : State → Host.Outcome State Fault Refusal := advanceCycle

/-- `s` with an instruction word in the Program Store where the next cycle fetches, at the pc, and in the four latches, so
that the very next step performs the fetch, decode, execute, memory and write-back of exactly this instruction. The word is
the 32-bit binary image of R98; bits above `nbits` are 0 (log 7). -/
def State.withFetchWord (s : State) (nbits w : Nat) : State :=
  primePipeline (placeImage s (BitVec.ofNat 32 (w % 2 ^ nbits)))

end Sys2Proof.Machine
end

