-- ==== Sys2Proof/Machine/HostOps.lean ====
section
/-! DEFINITION. The boundary operations of 70_reset_and_hazards.md R260 to R268: what the host does to the core between
two cycles (20_memory.md R64). Each begins with an empty report list and leaves its reports in `reports` (R230). -/

namespace Sys2Proof.Machine

/-- A host operation begins: its report list is empty (R38). -/
def State.beginOp (s : State) : State := { s with reports := [] }

/-- `reset()` (R260): registers, memory, latches, pc, HI, cycles, currentLine and run state at their reset values; the
Program Store and the baselines unchanged. The sticky report list starts anew (log 9). -/
def State.resetOp (s : State) : State :=
  { s.beginOp.clearPipeline with
    regs := Vector.replicate 32 0
    hi := 0
    mem := []
    runState := .idle
    reportLog := []
    haltCause := none }

/-- `stop()` (R262): the pipeline state only; registers, HI, memory, store and baselines keep their values (D24). -/
def State.stopOp (s : State) : State :=
  { s.beginOp.clearPipeline with runState := .idle, haltCause := none }

/-- `loadProgram(lines)` (R264): replaces the store by the normalised lines, nothing else. -/
def State.loadProgram (s : State) (lines : List (List Char)) : State :=
  { s.beginOp with prog := lines.map fun l => .text (normalise l) }

/-- The same for a program given as the binary images of its lines (R98; log 6). -/
def State.loadImages (s : State) (words : List (BitVec 32)) : State :=
  { s.beginOp with prog := words.map .image }

/-- `n` calls of `advanceCycle` (R120), up to the first fault or refusal. -/
def advanceCycles : Nat → State → Result
  | 0, s => .next s
  | n + 1, s => Result.andThen (step s) (advanceCycles n)

/-- What `advanceCycle` and `stepOnce` return: the current line, the run state and the reports (R261, D26). -/
structure CycleReturn where
  line : Option Int
  runState : RunState
  reports : List Report
deriving DecidableEq, Repr

/-- The return value after a call: none when the core was already halted or the call performed the halt
transition (R120, R136, R261). -/
def State.cycleReturn (s : State) : CycleReturn where
  line := if s.runState = .halted then none else s.currentLine
  runState := s.runState
  reports := s.reports

/-- The run state at the end of a `stepOnce()` that began in `before` (R263). -/
def settleRunState (before : RunState) (s : State) : State :=
  if before = .idle ∧ s.runState ≠ .halted then { s with runState := .idle } else s

/-- `stepOnce()` (R245, R261): exactly one cycle; an idle core is `SteppingOnce` during the call and `Idle` after it
unless halted (R263). -/
def stepOnce (s : State) : Result :=
  Result.andThen (step (if s.runState = .idle then { s with runState := .steppingOnce } else s)) fun t =>
    .next (settleRunState s.runState t)

/-- The loop of `run()` (R265): cycles until the core halts or `n` of them are done, where the host intervenes. -/
def runLoop : Nat → State → Result
  | 0, s => .next s
  | n + 1, s => if s.runState = .halted then .next s else Result.andThen (step s) (runLoop n)

/-- `run()` (R263, R265): an idle core is `Running`; the delay between cycles has no effect on any state (R283). -/
def runFor (n : Nat) (s : State) : Result :=
  runLoop n (if s.runState = .idle then { s.beginOp with runState := .running } else s.beginOp)

/-- `readRegister(i)` (R22, R246, R266): the value, and the state with the reports. -/
def State.hostReadRegister (s : State) (i : Nat) : Word × State :=
  (s.readReg i, s.beginOp.report (registerReports i))

/-- `writeRegister(i, v)` for any integer `v` (R23, R266). -/
def State.hostWriteRegister (s : State) (i : Nat) (v : Int) : State := s.beginOp.writeReg i (u32 v)

/-- `readWord(addr)` (R57, R266). -/
def State.hostReadWord (s : State) (a : Int) : Word × State :=
  (s.readWord a, s.beginOp.report (s.accessReports a))

/-- `writeWord(addr, v)` for any integer `v`, "truncated to 32 bits on store" (R58, R266). -/
def State.hostWriteWord (s : State) (a : Int) (v : Int) : State :=
  { s.beginOp with mem := s.storeWord a (u32 v) }.report (s.accessReports a)

/-- `snapshot()` (R267): registers and memory into their baselines. -/
def State.snapshot (s : State) : State := { s.beginOp with baselineRegs := s.regs, baselineMem := s.mem }

/-- `restore()` (R268): the baselines into registers and memory, register 0 zeroed in any case. -/
def State.restore (s : State) : State :=
  { s.beginOp with regs := s.baselineRegs.set 0 0, mem := s.baselineMem }

end Sys2Proof.Machine
end

