-- ==== Sys2Proof/Safety.lean ====
section
/-! DEFINITION. What counts as a safe run, in the terms claims use: well-formed programs (30_encoding.md R94 to R97), the
invariant of the core between cycles (10_state.md R28, R35, R41), runs that make no report (60_exceptions.md R248), and
the reading of one instruction alone that a spaced program may rely on (70_reset_and_hazards.md R275). -/

namespace Sys2Proof

/-- The index token 1 spells (R90); 0 for NOP, which has no token. -/
def Instr.token1 : Instr → Nat
  | .nop => 0
  | .add d _ _ | .addi d _ _ | .sub d _ _ | .subi d _ _ | .mul d _ _ | .mulu d _ _ | .div d _ _ | .divu d _ _
  | .and d _ _ | .andi d _ _ | .or d _ _ | .ori d _ _ | .xor d _ _ | .xori d _ _ | .nor d _ _
  | .sll d _ _ | .srl d _ _ | .sllImm d _ _ | .srlImm d _ _ | .mfhi d | .li d _ | .lui d _ => d
  | .lw t _ _ | .sw t _ _ => t
  | .beq a _ _ | .bne a _ _ => a

/-- BEQ and BNE, the only control-transfer instructions (R200). -/
def Instr.isBranch : Instr → Bool
  | .beq _ _ _ | .bne _ _ _ => true
  | _ => false

/-- The line is not one that R94 to R96 refuse. -/
def Line.wellFormed (l : Line) : Bool :=
  match l.decode with
  | .illFormed _ => false
  | _ => true

end Sys2Proof

namespace Sys2Proof.Machine

/-- Every line of the program, and the line in latch F, has a decode step (R94 to R97). -/
def State.programWellFormed (s : State) : Bool :=
  s.prog.all Line.wellFormed && (match s.latchF with
    | none => true
    | some f => f.raw.wellFormed)

/-- The four latches hold NOP (R133). -/
def State.latchesEmpty (s : State) : Bool :=
  s.latchF.isNone && s.latchD.isNone && s.latchE.isNone && s.latchM.isNone

/-- What a record in latch D, E or M satisfies: its opcode is the reading of its text, `rd` is the index of token 1
(R31), and the effective address is in the range of R52 and R130. -/
structure RecordInv (r : Record) : Prop where
  opcode_of_raw : match r.opcode with
    | .known i => r.raw.decode = .instr i ∧ i ≠ .nop ∧ r.rd = i.token1
    | .unknown m => r.raw.decode = .unknown m
  address_low : -32768 ≤ r.memoryAddress
  address_high : r.memoryAddress ≤ 2 ^ 32 + 32766

/-- The invariant of the core between two cycles. -/
structure Inv (s : State) : Prop where
  /-- R5, R50: MEM_BYTES is a positive multiple of 4. -/
  config_wf : s.config.wf = true
  /-- R20: register 0 is hard-wired zero. -/
  reg_zero : s.regs[0] = 0
  /-- The data memory is in canonical form and inside its size (R50). -/
  mem_wf : s.mem.wf s.config.memBytes = true
  /-- So is its baseline (R39). -/
  baseline_wf : s.baselineMem.wf s.config.memBytes = true
  /-- Log 8. -/
  stage_start : s.stage = .writeBack
  /-- R35: at most CEILING. -/
  cycles_le : s.cycles ≤ s.config.ceiling
  /-- R28: the least value a branch can assign. -/
  pc_low : -32769 ≤ s.pc
  /-- R28: the greatest value a branch can assign, and 1 for each cycle. -/
  pc_high : s.pc ≤ 32766 + s.cycles
  /-- R37: currentLine is the line just fetched. -/
  current_line : ∀ a, s.currentLine = some a → 0 ≤ a ∧ s.pc = a + 1
  /-- R135: what a halt leaves. -/
  halted_clean : s.runState = .halted →
    s.latchesEmpty = true ∧ s.pc = 0 ∧ s.cycles = 0 ∧ s.currentLine = none
  /-- Log 10. -/
  halt_cause : s.haltCause.isSome = true ↔ s.runState = .halted
  /-- R132: a blank line enters the latches as NOP. -/
  fetched_not_blank : ∀ f, s.latchF = some f → f.raw.isBlank = false
  recordD : ∀ r, s.latchD = some r → RecordInv r
  recordE : ∀ r, s.latchE = some r → RecordInv r
  recordM : ∀ r, s.latchM = some r → RecordInv r

/-- No report was made since the last `reset()` (R248): claims that are to hold of a machine that differs in the degraded
values assume this of the last state. -/
def State.noReports (s : State) : Bool := s.reportLog.isEmpty

/-- What instruction `i` does to registers, HI and memory, with its register operands read by `x` and everything else
taken from `s`: the reading of the 24 mnemonics as one assignment each, on 32-bit arithmetic and apart from the stage
functions. `x` is a parameter because operands are read at decode, before older instructions may have written (R275). -/
def effect (x : Nat → Word) (i : Instr) (s : State) : State :=
  match i with
  | .nop | .beq _ _ _ | .bne _ _ _ => s
  | .add d a b => s.writeReg d (x a + x b)
  | .addi d a imm => s.writeReg d (x a + imm.value.signExtend 32)
  | .sub d a b => s.writeReg d (x a - x b)
  | .subi d a imm => s.writeReg d (x a - imm.value.signExtend 32)
  | .mul d a b => s.writeReg d (x a * x b)
  | .mulu d a b => s.writeReg d (x a * x b)
  | .div d a b =>
    { s.writeReg d (if x b = 0 then 0 else BitVec.ofInt 32 (Int.fdiv (x a).toInt (x b).toInt)) with
      hi := if x b = 0 then 0 else BitVec.ofInt 32 (Int.fmod (x a).toInt (x b).toInt) }
  | .divu d a b => s.writeReg d (x a / x b)
  | .and d a b => s.writeReg d (x a &&& x b)
  | .andi d a imm => s.writeReg d (x a &&& imm.value.zeroExtend 32)
  | .or d a b => s.writeReg d (x a ||| x b)
  | .ori d a imm => s.writeReg d (x a ||| imm.value.zeroExtend 32)
  | .xor d a b => s.writeReg d (x a ^^^ x b)
  | .xori d a imm => s.writeReg d (x a ^^^ imm.value.zeroExtend 32)
  | .nor d a b => s.writeReg d (~~~(x a ||| x b))
  | .sll d a b => s.writeReg d (x a <<< ((x b).toNat % 32))
  | .sllImm d a imm => s.writeReg d (x a <<< (imm.value.toNat % 32))
  | .srl d a b => s.writeReg d (x a >>> ((x b).toNat % 32))
  | .srlImm d a imm => s.writeReg d (x a >>> (imm.value.toNat % 32))
  | .mfhi d => s.writeReg d s.hi
  | .lw t off b => s.writeReg t (s.readWord ((x b).toNat + off.value.toInt))
  | .sw t off b => { s with mem := s.storeWord ((x b).toNat + off.value.toInt) (x t) }
  | .li d imm => s.writeReg d (imm.value.signExtend 32)
  | .lui d imm => s.writeReg d (imm.value.zeroExtend 32 <<< 16)

/-- The effect of an instruction whose operands are settled: nothing older is in flight, or it stands three or more slots
behind (R275). -/
def settled (i : Instr) (s : State) : State := effect s.readReg i s

/-- The reports of the decode stage of an instruction, in order (R232, R235, R238). -/
def decodeReports : Instr → List Report
  | .nop => []
  | .add d a b | .sub d a b | .mul d a b | .mulu d a b | .div d a b | .divu d a b
  | .and d a b | .or d a b | .xor d a b | .nor d a b | .sll d a b | .srl d a b =>
    registerReports d ++ registerReports a ++ registerReports b
  | .addi d a imm | .subi d a imm | .andi d a imm | .ori d a imm | .xori d a imm
  | .sllImm d a imm | .srlImm d a imm | .beq d a imm | .bne d a imm =>
    registerReports d ++ registerReports a ++ literalReports imm
  | .mfhi _ => []
  | .li _ imm | .lui _ imm => literalReports imm
  | .lw t off b | .sw t off b => literalReports off ++ registerReports b ++ registerReports t

/-- All reports an instruction makes over its life, oldest first: decode, then a zero divisor in EX or a failing access in
MEM, then the write port in WB (R231 to R235), with register operands read by `x`. -/
def lifeReports (x : Nat → Word) (i : Instr) (s : State) : List Report :=
  decodeReports i
    ++ (match i with
      | .div _ _ b | .divu _ _ b => if x b = 0 then [.divisionByZero] else []
      | .lw _ off b | .sw _ off b => s.accessReports ((x b).toNat + off.value.toInt)
      | _ => [])
    ++ (if i.writesBack then registerReports i.token1 else [])

end Sys2Proof.Machine
end

