-- ==== Sys2Proof/Certificates/Slice0/Obligations.lean ====
section
/-! DEFINITION. The statements for the provers. Each docstring names the rule of spec/ it formalises, or the decision of
the spec or the log entry it rests on. -/

open Sys2Proof Sys2Proof.Machine

namespace Sys2Proof.Claims

/-! ## Words the statements share -/

/-- The class of an operand token (R84). -/
inductive Kind where
  | reg | lit | mem | malformed
deriving DecidableEq, Repr

/-- The class of a classified token. -/
def kindOf : Token → Kind
  | .reg _ => .reg
  | .lit _ => .lit
  | .mem _ _ => .mem
  | .malformed => .malformed

/-- The operand kinds of the canonical forms of a mnemonic, as the table of R92 lists them. -/
def canonicalKinds : Mnemonic → List (List Kind)
  | .add | .sub | .mul | .mulu | .div | .divu | .and | .or | .xor | .nor => [[.reg, .reg, .reg]]
  | .addi | .subi | .andi | .ori | .xori | .beq | .bne => [[.reg, .reg, .lit]]
  | .sll | .srl => [[.reg, .reg, .reg], [.reg, .reg, .lit]]
  | .mfhi => [[.reg]]
  | .lw | .sw => [[.reg, .mem]]
  | .li | .lui => [[.reg, .lit]]

/-- The core evaluates a cycle: it is not halted and the halt test fails (R120). -/
def Evaluates (s : State) : Prop := s.runState ≠ .halted ∧ s.haltTest = false

/-- `sext16` of a resolved value, as a 32-bit pattern (R7). -/
def sext (w : Word) : Word := (w.setWidth 16).signExtend 32

/-- `zext16` of a resolved value (R7). -/
def zext (w : Word) : Word := (w.setWidth 16).setWidth 32

/-- The operand fields the decode stage of `i` assigns in record `r`, with registers read by `x` (R129 to R131). -/
def OperandsRead (x : Nat → Word) (i : Instr) (r : Record) : Prop :=
  match i with
  | .nop => True
  | .add d a b | .sub d a b | .mul d a b | .mulu d a b | .div d a b | .divu d a b
  | .and d a b | .or d a b | .xor d a b | .nor d a b | .sll d a b | .srl d a b =>
    r.rd = d ∧ r.branchComparand = x d ∧ r.rs = x a ∧ r.rt = .value (x b)
  | .addi d a imm | .subi d a imm | .andi d a imm | .ori d a imm | .xori d a imm
  | .sllImm d a imm | .srlImm d a imm | .beq d a imm | .bne d a imm =>
    r.rd = d ∧ r.branchComparand = x d ∧ r.rs = x a ∧ r.rt = .value (imm.value.setWidth 32)
  | .mfhi d => r.rd = d
  | .li d imm | .lui d imm => r.rd = d ∧ r.rs = imm.value.setWidth 32
  | .lw t off b | .sw t off b =>
    r.rd = t ∧ r.memoryAddress = ((x b).toNat : Int) + off.value.toInt ∧ r.rt = .address r.memoryAddress ∧
      r.memoryValue = x t

/-- Decode completes: with a line in F and the default HAZARD_POLICY, D receives a record with the line's address, text and
opcode and the operands read now, the reads' reports are made in order, and nothing else changes. -/
def Decodes (i : Instr) : Prop :=
  ∀ (s : State) (f : FetchRecord), s.stage = .decode → s.latchF = some f → s.config.hazardPolicy = .oldValue →
    ∃ r, exec i s = .next ({ s with latchD := some r }.report (decodeReports i)) ∧
      r.address = f.address ∧ r.raw = f.raw ∧ r.opcode = .known i ∧ OperandsRead s.readReg i r

/-- Execute completes: `result` is `value` of the resolved operands; nothing else changes, no report is made. -/
def Computes (i : Instr) (value : Word → Word → Word) : Prop :=
  ∀ (s : State) (r : Record) (b : Word), s.stage = .execute → s.latchD = some r → r.rt = .value b →
    exec i s = .next { s with latchE := some { r with result := value r.rs b } }

/-- Memory only moves the record from E to M (R124). -/
def Moves (i : Instr) : Prop :=
  ∀ (s : State) (r : Record), s.stage = .memory → s.latchE = some r → exec i s = .next { s with latchM := some r }

/-- Write-back is `x[rd] <- result` (R122). -/
def WritesRd (i : Instr) : Prop :=
  ∀ (s : State) (r : Record), s.stage = .writeBack → s.latchM = some r →
    exec i s = .next (s.writeReg r.rd r.result)

/-- Write-back does nothing. -/
def WritesNothing (i : Instr) : Prop :=
  ∀ (s : State), s.stage = .writeBack → exec i s = .next s

/-- The whole rule of a three-register instruction: binary image R3, decode as shape S4, execute, memory, write-back. -/
def RuleR3 (op : BitVec 6) (f : Nat → Nat → Nat → Instr) (value : Word → Word → Word) : Prop :=
  (∀ d a b : BitVec 5, decodeImage (op ++ d ++ a ++ b ++ 0#11) = .instr (f d.toNat a.toNat b.toNat)) ∧
  ∀ d a b, Decodes (f d a b) ∧ Computes (f d a b) value ∧ Moves (f d a b) ∧ WritesRd (f d a b)

/-- The whole rule of an instruction with a literal at token 3: binary image I3. -/
def RuleI3 (op : BitVec 6) (f : Nat → Nat → Lit → Instr) (value : Word → Word → Word) : Prop :=
  (∀ (d a : BitVec 5) (v : BitVec 16), decodeImage (op ++ d ++ a ++ v) = .instr (f d.toNat a.toNat ⟨v, false⟩)) ∧
  ∀ d a imm, Decodes (f d a imm) ∧ Computes (f d a imm) value ∧ Moves (f d a imm) ∧ WritesRd (f d a imm)

/-- The whole rule of an instruction with a literal at token 2, shape S3: binary image I2. -/
def RuleI2 (op : BitVec 6) (f : Nat → Lit → Instr) (value : Word → Word) : Prop :=
  (∀ (d : BitVec 5) (v : BitVec 16), decodeImage (op ++ d ++ 0#5 ++ v) = .instr (f d.toNat ⟨v, false⟩)) ∧
  ∀ d imm, Decodes (f d imm) ∧ Moves (f d imm) ∧ WritesRd (f d imm) ∧
    ∀ (s : State) (r : Record), s.stage = .execute → s.latchD = some r →
      exec (f d imm) s = .next { s with latchE := some { r with result := value r.rs } }

/-- An instruction whose decode slot of the four-token or memory shapes is followed by an execute stage that passes the
record on (R126). -/
def Passes (i : Instr) : Prop :=
  ∀ (s : State) (r : Record), s.stage = .execute → s.latchD = some r → exec i s = .next { s with latchE := some r }

/-- The fetch stage of R132: F, currentLine and the pc, and nothing else. -/
def Fetches (act : State → Result) : Prop :=
  ∀ s : State, s.stage = .fetch →
    (∀ l, 0 ≤ s.pc → s.prog[s.pc.toNat]? = some l →
      act s = .next { s with
        latchF := if l.isBlank then none else some { address := s.pc, raw := l }
        currentLine := some s.pc
        pc := s.pc + 1 }) ∧
    ((s.pc < 0 ∨ (s.prog.length : Int) ≤ s.pc) →
      act s = .next { s with latchF := none, currentLine := none, pc := s.pc + 1 })

/-- The upper-case form of an ASCII letter; every other character is its own. -/
def upperCase (c : Char) : Char := if 97 ≤ c.toNat ∧ c.toNat ≤ 122 then Char.ofNat (c.toNat - 32) else c

/-- What a stage does with what stands in front of it. -/
def runSlot (d : Decoded) (s : State) : Result :=
  match d with
  | .instr i => exec i s
  | .unknown m => passUnknown m s
  | .illFormed why => .refused (.illFormedLine why)

/-- What stands in front of DE. -/
def fetchSlot (f : Option FetchRecord) : Decoded :=
  match f with
  | none => .instr .nop
  | some f => f.raw.decode

/-- The value of register `k` after this cycle's write-back (R138). -/
def afterWriteBack (s : State) (k : Nat) : Word :=
  match s.latchM with
  | none => s.readReg k
  | some r =>
    match r.opcode with
    | .known i => if i.writesBack = true ∧ r.rd = k ∧ 0 < k ∧ k < 32 then r.result else s.readReg k
    | .unknown _ => s.readReg k

/-- The same but for run state, halt cause and report lists. -/
def SameCore (s t : State) : Prop :=
  s = { t with runState := s.runState, haltCause := s.haltCause, reports := s.reports, reportLog := s.reportLog }

/-- The word bank `W[j]` of R54. -/
def bank (m : Memory) (j : Nat) : Word := m.wordAt (4 * j)

/-- The mask `2^(8k) - 1` of R54. -/
def lowMask (k : Nat) : Word := BitVec.ofNat 32 (2 ^ (8 * k) - 1)

/-- An idle pipeline about to fetch, under the default policies: not halted, latches empty. -/
structure Ready (s : State) : Prop where
  not_halted : s.runState ≠ .halted
  empty : s.latchesEmpty = true
  policies : s.config.defaultPolicies = true
  pc_nonneg : 0 ≤ s.pc

/-- The program line at index `k` decodes to instruction `i`. -/
def LineIs (s : State) (k : Nat) (i : Instr) : Prop := ∃ l, s.prog[k]? = some l ∧ l.decode = .instr i

/-- The lines of a program with two blank lines after each (the spacing R275 asks for). -/
def spaced (ls : List Line) : List Line := ls.flatMap fun l => [l, .text [], .text []]

/-- `n` calls of `stepOnce()`. -/
def stepOnceTimes : Nat → State → Result
  | 0, s => .next s
  | n + 1, s => Result.andThen (stepOnce s) (stepOnceTimes n)

end Sys2Proof.Claims

open Sys2Proof.Claims

/-! ## Encoding -/

/-- R98 (the spec's own construction, D2): no bit of an image is dropped. -/
def Obligations.ImageDecodesWhatEncodeWrites : Prop :=
  ∀ i : Instr, i.wf = true → decodeImage (encode i) = .instr i

/-- R98: "The image of a line is unique": an image that decodes is the one the encoder writes, and is well formed. -/
def Obligations.EncodeWritesWhatImageDecodes : Prop :=
  ∀ (w : BitVec 32) (i : Instr), decodeImage w = .instr i → i.wf = true ∧ encode i = w

/-- R80 to R92: the canonical source line of every instruction, whatever its register indices and literals, is a normalised
line and decodes to the instruction. -/
def Obligations.TextDecodesWhatRenderWrites : Prop :=
  ∀ i : Instr, normalise (renderLine i) = renderLine i ∧ decodeText (renderLine i) = .instr i

/-- R98 and opcode_table.json: a word decodes to an instruction exactly when it matches a row (else it is an unknown
mnemonic), and no word matches two rows. -/
def Obligations.ImageRowsDecideDecoding : Prop :=
  (∀ w : BitVec 32, (∃ i, decodeImage w = .instr i) ↔ ∃ row ∈ imageRows, w &&& row.2 = row.1) ∧
  (∀ w : BitVec 32, (∀ row ∈ imageRows, w &&& row.2 ≠ row.1) → decodeImage w = .unknown []) ∧
  (∀ w : BitVec 32, ∀ row ∈ imageRows, ∀ row' ∈ imageRows,
    w &&& row.2 = row.1 → w &&& row'.2 = row'.1 → row = row')

/-- Words and lines written out in the spec (R98, 95_test_vectors.md) decode to the instructions they stand for. -/
def Obligations.WordsOfTheSpecDecode : Prop :=
  decodeImage 0x08200005 = .instr (.addi 1 0 ⟨5, false⟩) ∧
  decodeImage 0x4C410004 = .instr (.lw 2 ⟨4, false⟩ 1) ∧
  decodeImage 0x5C200002 = .instr (.beq 1 0 ⟨2, false⟩) ∧
  decodeImage 0x48800000 = .instr (.mfhi 4) ∧
  decodeImage 0x44411800 = .instr (.srl 2 1 3) ∧
  decodeImage 0x6C000000 = .unknown [] ∧
  decodeText "LI $1, 12345".toList = .instr (.li 1 ⟨0x1234, true⟩) ∧
  decodeText "SW $1,1FFD($0)".toList = .instr (.sw 1 ⟨0x1FFD, false⟩ 0) ∧
  decodeText "NORI $1, $2, FF".toList = .unknown "NORI".toList

/-- R92 to R96 (D27, D28): an unknown mnemonic is read as such whatever follows it; a line with a known one is an instruction
exactly when its operand tokens have the kinds of a canonical form, and is refused otherwise: as malformed when a token is
(R96), else for its shape (R94), else for the kind of an operand (R95). That order, for a line that is several at once, is the
model's choice (log 11). -/
def Obligations.UnknownAndRefusedLines : Prop :=
  (∀ m ops, mnemonicOf m = none → decodeTokens (m :: ops) = .unknown m) ∧
  ∀ (k : Mnemonic) (ops : List (List Char)),
    let kinds := (ops.map classify).map kindOf
    (kinds ∈ canonicalKinds k → ∃ i, decodeTokens (k.text :: ops) = .instr i) ∧
    (kinds ∉ canonicalKinds k → .malformed ∈ kinds →
      decodeTokens (k.text :: ops) = .illFormed .malformedToken) ∧
    (kinds ∉ canonicalKinds k → .malformed ∉ kinds → shapeOf (ops.map classify) ≠ some k.shape →
      decodeTokens (k.text :: ops) = .illFormed .wrongShape) ∧
    (kinds ∉ canonicalKinds k → .malformed ∉ kinds → shapeOf (ops.map classify) = some k.shape →
      decodeTokens (k.text :: ops) = .illFormed .wrongOperandKind)

/-- R86: a literal keeps its first four digits, and is marked exactly when it has more. -/
def Obligations.LiteralKeepsFirstFourDigits : Prop :=
  ∀ tok : List Char,
    (tok ≠ [] → tok.all isHexDigit = true → ∃ l, literalToken tok = some l ∧
      l.value.toNat = numeral 16 (tok.take 4) ∧ (l.overflow = true ↔ 4 < tok.length) ∧
      literalReports l = if 4 < tok.length then [.immediateOverflow] else []) ∧
    (tok = [] ∨ tok.all isHexDigit = false → literalToken tok = none)

/-- R80 (which characters are white space or letters: the model's choice of ASCII, log 14): of a line that is white space, a
body, white space and perhaps a comment, the body is kept with its letters in upper case; and a normalised line has no
comment, no lower-case letter and no white space at its ends, and normalising it again changes nothing. -/
def Obligations.NormalisedLineIsFixed : Prop :=
  (∀ p body q comment : List Char, (∀ c ∈ p, isSpace c = true) → (∀ c ∈ q, isSpace c = true) → '#' ∉ body →
    (∀ c, body.head? = some c ∨ body.getLast? = some c → isSpace c = false) →
    normalise (p ++ body ++ q) = body.map upperCase ∧
    normalise (p ++ body ++ q ++ '#' :: comment) = body.map upperCase) ∧
  ∀ line : List Char, normalise (normalise line) = normalise line ∧ '#' ∉ normalise line ∧
    (∀ c ∈ normalise line, c.isLower = false) ∧
    (∀ c, (normalise line).head? = some c ∨ (normalise line).getLast? = some c → isSpace c = false)

/-! ## Reset, the invariant, the cycle -/

/-- R41, R269 (D13, D22, D23, D33): the values at power-on, and the invariant holds there. -/
def Obligations.ResetHoldsItsValuesAndInvariant : Prop :=
  Inv State.reset ∧ (∀ k, State.reset.readReg k = 0) ∧ (∀ a, State.reset.mem.byteAt a = 0) ∧
  State.reset.hi = 0 ∧ State.reset.pc = 0 ∧ State.reset.latchesEmpty = true ∧ State.reset.cycles = 0 ∧
  State.reset.runState = .idle ∧ State.reset.currentLine = none ∧ State.reset.prog = [] ∧
  (∀ k (h : k < 32), State.reset.baselineRegs[k] = 0) ∧ (∀ a, State.reset.baselineMem.byteAt a = 0)

/-- R20, R28, R31, R35, R37, R50, R52, R135: from every state that meets it, a cycle keeps the invariant. -/
def Obligations.StepKeepsInvariant : Prop :=
  ∀ s t : State, Inv s → step s = .next t → Inv t

/-- R260 to R268: so does every boundary operation. -/
def Obligations.HostOperationsKeepInvariant : Prop :=
  ∀ s : State, Inv s →
    Inv s.resetOp ∧ Inv s.stopOp ∧ Inv s.snapshot ∧ Inv s.restore ∧
    (∀ lines, Inv (s.loadProgram lines)) ∧ (∀ ws, Inv (s.loadImages ws)) ∧
    (∀ i, Inv (s.hostReadRegister i).2) ∧ (∀ i v, Inv (s.hostWriteRegister i v)) ∧
    (∀ a, Inv (s.hostReadWord a).2) ∧ (∀ a v, Inv (s.hostWriteWord a v)) ∧
    (∀ t, stepOnce s = .next t → Inv t) ∧ (∀ n t, runFor n s = .next t → Inv t)

/-- R120, R127, R132: a cycle is WB, MEM, EX, DE, IF in this order, each `exec` of the instruction in front of it: those of
latches M, E and D, the reading of the line in F, and the reading of the line at the pc that EX left; then the cycle is
counted. That the part of each stage is `exec` of one instruction (log 19), and that an ill-formed line is fetched and then
refused at decode (log 11), are the model's choices. -/
def Obligations.CycleRunsTheDecodedInstructions : Prop :=
  ∀ s : State, Evaluates s →
    step s =
      Result.andThen (runSlot (latchSlot s.latchM) { s with reports := [], stage := .writeBack }) fun s1 =>
      Result.andThen (runSlot (latchSlot s.latchE) { s1 with stage := .memory }) fun s2 =>
      Result.andThen (runSlot (latchSlot s.latchD) { s2 with stage := .execute }) fun s3 =>
      Result.andThen (runSlot (fetchSlot s.latchF) { s3 with stage := .decode }) fun s4 =>
      Result.andThen
        (match s4.lineAtPc.map Line.decode with
          | none => exec .nop { s4 with stage := .fetch }
          | some (.instr i) => exec i { s4 with stage := .fetch }
          | some _ => fetchLine { s4 with stage := .fetch }) fun s5 =>
      .next { s5 with cycles := s5.cycles + 1, stage := .writeBack }

/-- R132 (D9, D26): the fetch stage of every instruction completes in every state. -/
def Obligations.FetchStage : Prop := ∀ i : Instr, Fetches (exec i)

/-- R133, R135, R241 (D10 to D12): when the halt test succeeds the step is the halt transition and nothing else, and it tells
a drained halt from one at the ceiling; when it fails a step never halts. That a halt that is both is called drained is the
model's choice (log 10). -/
def Obligations.HaltTransitionAndItsTest : Prop :=
  ∀ s : State, s.runState ≠ .halted →
    ((s.config.ceiling ≤ s.cycles ∨ ((s.prog.length : Int) ≤ s.pc ∧ s.latchesEmpty = true)) →
      ∃ t, step s = .next t ∧ t.runState = .halted ∧ t.latchesEmpty = true ∧ t.pc = 0 ∧ t.cycles = 0 ∧
        t.currentLine = none ∧ t.reports = [] ∧ t.regs = s.regs ∧ t.hi = s.hi ∧ t.mem = s.mem ∧ t.prog = s.prog ∧
        t.baselineRegs = s.baselineRegs ∧ t.baselineMem = s.baselineMem ∧
        ((s.prog.length : Int) ≤ s.pc ∧ s.latchesEmpty = true → t.haltCause = some .drained) ∧
        (¬ ((s.prog.length : Int) ≤ s.pc ∧ s.latchesEmpty = true) → t.haltCause = some .ceiling)) ∧
    (¬ (s.config.ceiling ≤ s.cycles ∨ ((s.prog.length : Int) ≤ s.pc ∧ s.latchesEmpty = true)) →
      ∀ t, step s = .next t → t.runState = s.runState)

/-- R136 (D12): `Halted` is terminal for any number of cycles. -/
def Obligations.HaltedIsTerminal : Prop :=
  ∀ (n : Nat) (s : State), s.runState = .halted → advanceCycles (n + 1) s = .next { s with reports := [] }

/-- R134, R241 (D11): from any state at all, more than CEILING calls leave the core halted; it never hangs. -/
def Obligations.CeilingBoundsEveryRun : Prop :=
  ∀ (n : Nat) (s t : State), s.config.ceiling < n → advanceCycles n s = .next t → t.runState = .halted

/-- R236, R230: under the default policies a core with a well-formed program never stops with a fault or a refusal. -/
def Obligations.DefaultPoliciesNeverStop : Prop :=
  ∀ (n : Nat) (s : State), s.config.defaultPolicies = true → s.programWellFormed = true →
    ∃ t, advanceCycles n s = .next t ∧ t.programWellFormed = true ∧ t.config = s.config

/-- R94 to R96, R127 (D28; refused at decode, log 11): the step that decodes an ill-formed line is refused. -/
def Obligations.IllFormedLineIsRefused : Prop :=
  ∀ (s : State) (f : FetchRecord) (why : IllFormed), Evaluates s → s.config.defaultPolicies = true →
    s.latchF = some f → f.raw.decode = .illFormed why → step s = .refused (.illFormedLine why)

/-- U1, U2 (log 2, log 3): what the two policies flag, exactly. A decode-time read is flagged when latch E or M holds an
instruction of the write-back set whose destination, 1 to 31, the instruction reads; a taken branch when F holds a line. -/
def Obligations.PoliciesFlagExactlyTheirConstruct : Prop :=
  (∀ (i : Instr) (s : State) (f : FetchRecord), i ≠ .nop → s.stage = .decode → s.latchF = some f →
    s.config.hazardPolicy = .fault →
    (exec i s = .fault .registerHazard ↔
      ∃ r j, (s.latchE = some r ∨ s.latchM = some r) ∧ r.opcode = .known j ∧ j.writesBack = true ∧
        r.rd ∈ i.sources ∧ 0 < r.rd ∧ r.rd < 32)) ∧
  (∀ (i : Instr) (s : State) (r : Record), i.isBranch = true → s.stage = .execute → s.latchD = some r →
    s.config.branchPolicy = .fault →
    (exec i s = .fault .delaySlotNotBlank ↔
      s.latchF ≠ none ∧ ((∃ a b tgt, i = .beq a b tgt ∧ r.rs = r.branchComparand) ∨
        (∃ a b tgt, i = .bne a b tgt ∧ r.rs ≠ r.branchComparand))))

/-- R27, R35, R37, R132: a cycle counts itself, fetches the line at the pc, which only a branch in EX can have changed, and
leaves the pc one above. -/
def Obligations.CycleCounterPcAndFetch : Prop :=
  ∀ s t : State, Evaluates s → step s = .next t →
    t.cycles = s.cycles + 1 ∧ t.runState = s.runState ∧
    ∃ p : Int, t.pc = p + 1 ∧
      (p = s.pc ∨ ∃ r i, s.latchD = some r ∧ r.opcode = .known i ∧ i.isBranch = true ∧ p = branchPc r) ∧
      (t.currentLine = if 0 ≤ p ∧ p < s.prog.length then some p else none) ∧
      (∀ l, 0 ≤ p → s.prog[p.toNat]? = some l →
        t.latchF = if l.isBlank then none else some { address := p, raw := l }) ∧
      ((p < 0 ∨ (s.prog.length : Int) ≤ p) → t.latchF = none)

/-! ## Register and memory ports -/

/-- R22, R23: the read port and the write port, for every index; the written value is any integer mod 2^32. -/
def Obligations.RegisterPorts : Prop :=
  ∀ (s : State) (i : Nat),
    (i = 0 → s.readReg i = 0 ∧ registerReports i = [] ∧ ∀ v, s.writeReg i v = s) ∧
    (32 ≤ i → s.readReg i = 0 ∧ registerReports i = [.invalidRegisterIndex] ∧
      ∀ v, s.writeReg i v = s.report [.invalidRegisterIndex]) ∧
    (∀ h : 0 < i ∧ i < 32, s.readReg i = s.regs[i] ∧ registerReports i = [] ∧
      ∀ v, (s.writeReg i v).readReg i = v ∧ (∀ j, j ≠ i → (s.writeReg i v).readReg j = s.readReg j) ∧
        s.writeReg i v = { s with regs := (s.writeReg i v).regs }) ∧
    (∀ v : Int, s.hostWriteRegister i v = s.beginOp.writeReg i (BitVec.ofInt 32 v))

/-- R56 (D21 for the two kinds): exactly one report for a failing access, none for addresses 0 to MEM_BYTES - 4. -/
def Obligations.BoundsCheck : Prop :=
  ∀ (s : State) (a : Int),
    ((a < 0 ∨ (s.config.memBytes : Int) ≤ a) → s.accessReports a = [.memoryOutOfBounds]) ∧
    (0 ≤ a → a < s.config.memBytes → (s.config.memBytes : Int) < a + 4 →
      s.accessReports a = [.unalignedOversizeAccess]) ∧
    (0 ≤ a → a + 4 ≤ s.config.memBytes → s.accessReports a = [])

/-- R57, R58: both accesses make the reports of the bounds check and change nothing but memory; a failing read gives 0, a
failing write changes no byte; a valid access moves the four bytes, low byte at the lowest address, and no other byte
changes. -/
def Obligations.WordReadAndWrite : Prop :=
  ∀ (s : State) (a : Int) (v : Int), s.mem.wf s.config.memBytes = true →
    s.hostReadWord a = (s.readWord a, s.beginOp.report (s.accessReports a)) ∧
    s.hostWriteWord a v = { s.beginOp with mem := (s.hostWriteWord a v).mem }.report (s.accessReports a) ∧
    ((a < 0 ∨ (s.config.memBytes : Int) < a + 4) →
      s.readWord a = 0 ∧ (s.hostWriteWord a v).mem = s.mem) ∧
    (0 ≤ a → a + 4 ≤ s.config.memBytes →
      (∀ k, k < 4 → (s.readWord a).extractLsb' (8 * k) 8 = s.mem.byteAt (a.toNat + k)) ∧
      (∀ k, k < 4 → (s.hostWriteWord a v).mem.byteAt (a.toNat + k) =
        (BitVec.ofInt 32 v).extractLsb' (8 * k) 8) ∧
      (∀ b : Nat, (b : Int) < a ∨ a + 4 ≤ b → (s.hostWriteWord a v).mem.byteAt b = s.mem.byteAt b))

/-- R59: "For all valid `addr`": write, then read gives the value, aligned or not. -/
def Obligations.WordRoundTrip : Prop :=
  ∀ (s : State) (a : Int) (v : Int), s.mem.wf s.config.memBytes = true → 0 ≤ a → a + 4 ≤ s.config.memBytes →
    (s.hostWriteWord a v).readWord a = BitVec.ofInt 32 v

/-- R54, R55: the byte view and the word-bank view are the same function: packing and unpacking across two words. -/
def Obligations.WordBankAgreement : Prop :=
  ∀ (n : Nat) (m : Memory) (j k : Nat) (v : Word), m.wf n = true → 1 ≤ k → k ≤ 3 →
    m.wordAt (4 * j + k) =
      (bank m j >>> (8 * k)) ||| ((bank m (j + 1) &&& lowMask k) <<< (32 - 8 * k)) ∧
    bank (m.setWord (4 * j + k) v) j = (bank m j &&& lowMask k) ||| (v <<< (8 * k)) ∧
    bank (m.setWord (4 * j + k) v) (j + 1) = (bank m (j + 1) &&& ~~~ lowMask k) ||| (v >>> (32 - 8 * k)) ∧
    ∀ j', j' ≠ j → j' ≠ j + 1 → bank (m.setWord (4 * j + k) v) j' = bank m j'

/-- R50 (the canonical form of the list, INVENTORY.md): two canonical memories with the same bytes are equal. -/
def Obligations.CanonicalMemoryIsExtensional : Prop :=
  ∀ (n : Nat) (m m' : Memory), m.wf n = true → m'.wf n = true → (∀ a, m.byteAt a = m'.byteAt a) → m = m'

/-! ## The instructions -/

/-- R161 to R164, with the image of R98 (the spec's own construction, D2) and the stages of R122, R124, R129. -/
def Obligations.AdditionAndSubtraction : Prop :=
  RuleR3 1 .add (fun x y => x + y) ∧ RuleI3 2 .addi (fun x y => x + sext y) ∧
  RuleR3 3 .sub (fun x y => x - y) ∧ RuleI3 4 .subi (fun x y => x - sext y)

/-- R165, R167 (D16, D30): the low 32 bits of the exact product, signed or unsigned; HI is not written. -/
def Obligations.Multiplication : Prop :=
  RuleR3 5 .mul (fun x y => BitVec.ofInt 32 (x.toInt * y.toInt)) ∧
  RuleR3 6 .mulu (fun x y => BitVec.ofNat 32 (x.toNat * y.toNat))

/-- R167: "MULU and MUL compute the same function of their operands". -/
def Obligations.MulAndMuluAgree : Prop :=
  ∀ (d a b d' a' b' : Nat) (s : State), s.stage = .execute → exec (.mul d a b) s = exec (.mulu d' a' b') s

/-- R166, R168, R169 (D14 to D16): quotient rounded toward minus infinity and the remainder of that quotient in HI; 0, HI 0
and a report for a zero divisor. Where DIV_REMAINDER = any value leaves HI open (U8, log 5) the quotient still holds, for
every value of HI. -/
def Obligations.Division : Prop :=
  (∀ d a b : BitVec 5, decodeImage (7#6 ++ d ++ a ++ b ++ 0#11) = .instr (.div d.toNat a.toNat b.toNat)) ∧
  (∀ d a b : BitVec 5, decodeImage (8#6 ++ d ++ a ++ b ++ 0#11) = .instr (.divu d.toNat a.toNat b.toNat)) ∧
  (∀ d a b, Decodes (.div d a b) ∧ Moves (.div d a b) ∧ WritesRd (.div d a b) ∧
    Decodes (.divu d a b) ∧ Moves (.divu d a b) ∧ WritesRd (.divu d a b)) ∧
  ∀ (d a b : Nat) (s : State) (r : Record) (w : Word), s.stage = .execute → s.latchD = some r → r.rt = .value w →
    (w = 0 →
      exec (.div d a b) s =
        .next ({ s with latchE := some { r with result := 0 }, hi := 0 }.report [.divisionByZero]) ∧
      exec (.divu d a b) s = .next ({ s with latchE := some { r with result := 0 } }.report [.divisionByZero])) ∧
    (w ≠ 0 →
      exec (.divu d a b) s =
        .next { s with latchE := some { r with result := BitVec.ofNat 32 (r.rs.toNat / w.toNat) } } ∧
      ∃ q m : Int, r.rs.toInt = q * w.toInt + m ∧ (0 < w.toInt → 0 ≤ m ∧ m < w.toInt) ∧
        (w.toInt < 0 → w.toInt < m ∧ m ≤ 0) ∧
        (∃ h, exec (.div d a b) s =
          .next { s with latchE := some { r with result := BitVec.ofInt 32 q }, hi := h }) ∧
        ((s.config.divRemainder = .floored ∨ m = 0 ∨ 0 ≤ r.rs.toInt * w.toInt) →
          exec (.div d a b) s =
            .next { s with latchE := some { r with result := BitVec.ofInt 32 q }, hi := BitVec.ofInt 32 m }))

/-- R170 (D13, D31): MFHI reads HI in EX and leaves it. -/
def Obligations.MoveFromHigh : Prop :=
  (∀ d : BitVec 5, decodeImage (18#6 ++ d ++ 0#21) = .instr (.mfhi d.toNat)) ∧
  ∀ d, Decodes (.mfhi d) ∧ Moves (.mfhi d) ∧ WritesRd (.mfhi d) ∧
    ∀ (s : State) (r : Record), s.stage = .execute → s.latchD = some r →
      exec (.mfhi d) s = .next { s with latchE := some { r with result := s.hi } }

/-- R181 to R187, with the image of R98 (the spec's own construction, D2) and the stages of R122, R124, R129. -/
def Obligations.BitwiseLogic : Prop :=
  RuleR3 9 .and (fun x y => x &&& y) ∧ RuleI3 10 .andi (fun x y => x &&& zext y) ∧
  RuleR3 11 .or (fun x y => x ||| y) ∧ RuleI3 12 .ori (fun x y => x ||| zext y) ∧
  RuleR3 13 .xor (fun x y => x ^^^ y) ∧ RuleI3 14 .xori (fun x y => x ^^^ zext y) ∧
  RuleR3 15 .nor (fun x y => ~~~(x ||| y))

/-- R188, R189 (D17): logical shifts by the low five bits of a register or literal amount; under SHIFT_POLICY = refuse (U7,
log 4) an amount of 32 or more is refused and every other one shifts. -/
def Obligations.Shifts : Prop :=
  (∀ d a b : BitVec 5, decodeImage (16#6 ++ d ++ a ++ b ++ 0#11) = .instr (.sll d.toNat a.toNat b.toNat)) ∧
  (∀ d a b : BitVec 5, decodeImage (17#6 ++ d ++ a ++ b ++ 0#11) = .instr (.srl d.toNat a.toNat b.toNat)) ∧
  (∀ (d a : BitVec 5) (v : BitVec 16),
    decodeImage (25#6 ++ d ++ a ++ v) = .instr (.sllImm d.toNat a.toNat ⟨v, false⟩)) ∧
  (∀ (d a : BitVec 5) (v : BitVec 16),
    decodeImage (26#6 ++ d ++ a ++ v) = .instr (.srlImm d.toNat a.toNat ⟨v, false⟩)) ∧
  ∀ (d a b : Nat) (imm : Lit) (i : Instr),
    (i = .sll d a b ∨ i = .sllImm d a imm ∨ i = .srl d a b ∨ i = .srlImm d a imm) →
    Decodes i ∧ Moves i ∧ WritesRd i ∧
    ∀ (s : State) (r : Record) (w : Word), s.stage = .execute → s.latchD = some r → r.rt = .value w →
      ((s.config.shiftPolicy = .low5 ∨ w.toNat < 32) → exec i s = .next { s with latchE := some { r with
        result := if i = .sll d a b ∨ i = .sllImm d a imm then r.rs <<< (w.toNat % 32)
          else r.rs >>> (w.toNat % 32) } }) ∧
      (s.config.shiftPolicy = .refuse → 32 ≤ w.toNat → exec i s = .refused .shiftAmount)

/-- R220, R221, with the image of R98 (the spec's own construction, D2) and the stages of R122, R124, R131. -/
def Obligations.ImmediateLoads : Prop :=
  RuleI2 20 .li sext ∧ RuleI2 21 .lui (fun x => zext x <<< 16)

/-- R210, R211 (D18, D34): the access of LW is in MEM; a failing one delivers 0. The place of the literal's report before the
base register's in `Decodes` is DEDUCED (log 12). -/
def Obligations.LoadWord : Prop :=
  (∀ (t b : BitVec 5) (v : BitVec 16),
    decodeImage (19#6 ++ t ++ b ++ v) = .instr (.lw t.toNat ⟨v, false⟩ b.toNat)) ∧
  ∀ t off b, Decodes (.lw t off b) ∧ Passes (.lw t off b) ∧ WritesRd (.lw t off b) ∧
    ∀ (s : State) (r : Record), s.stage = .memory → s.latchE = some r →
      (0 ≤ r.memoryAddress → r.memoryAddress + 4 ≤ s.config.memBytes →
        exec (.lw t off b) s = .next { s with latchM := some { r with
          result := s.mem.byteAt (r.memoryAddress.toNat + 3) ++ s.mem.byteAt (r.memoryAddress.toNat + 2) ++
            s.mem.byteAt (r.memoryAddress.toNat + 1) ++ s.mem.byteAt r.memoryAddress.toNat } }) ∧
      ((r.memoryAddress < 0 ∨ (s.config.memBytes : Int) < r.memoryAddress + 4) →
        exec (.lw t off b) s =
          .next ({ s with latchM := some { r with result := 0 } }.report (s.accessReports r.memoryAddress)))

/-- R210, R212 (D18): the access of SW is in MEM, at the address and with the data of its decode cycle; a failing one changes
no byte; write-back does nothing. The place of the literal's report before the base register's in `Decodes` is DEDUCED
(log 12). -/
def Obligations.StoreWord : Prop :=
  (∀ (t b : BitVec 5) (v : BitVec 16),
    decodeImage (22#6 ++ t ++ b ++ v) = .instr (.sw t.toNat ⟨v, false⟩ b.toNat)) ∧
  ∀ t off b, Decodes (.sw t off b) ∧ Passes (.sw t off b) ∧ WritesNothing (.sw t off b) ∧
    ∀ (s : State) (r : Record), s.stage = .memory → s.latchE = some r →
      ∃ m, exec (.sw t off b) s =
          .next ({ s with latchM := some r, mem := m }.report (s.accessReports r.memoryAddress)) ∧
        ((r.memoryAddress < 0 ∨ (s.config.memBytes : Int) < r.memoryAddress + 4) → m = s.mem) ∧
        (0 ≤ r.memoryAddress → r.memoryAddress + 4 ≤ s.config.memBytes → s.mem.wf s.config.memBytes = true →
          ∀ k, k < 4 → m.byteAt (r.memoryAddress.toNat + k) = r.memoryValue.extractLsb' (8 * k) 8)

/-- R201, R202 (D7, D8): the pc is `sext16(target) - 1` when the values are equal, or differ; else nothing changes. -/
def Obligations.Branches : Prop :=
  (∀ (a b : BitVec 5) (v : BitVec 16),
    decodeImage (23#6 ++ a ++ b ++ v) = .instr (.beq a.toNat b.toNat ⟨v, false⟩)) ∧
  (∀ (a b : BitVec 5) (v : BitVec 16),
    decodeImage (24#6 ++ a ++ b ++ v) = .instr (.bne a.toNat b.toNat ⟨v, false⟩)) ∧
  ∀ a b tgt, Decodes (.beq a b tgt) ∧ Moves (.beq a b tgt) ∧ WritesNothing (.beq a b tgt) ∧
    Decodes (.bne a b tgt) ∧ Moves (.bne a b tgt) ∧ WritesNothing (.bne a b tgt) ∧
    ∀ (s : State) (r : Record) (w : Word), s.stage = .execute → s.latchD = some r → r.rt = .value w →
      s.config.branchPolicy = .literal →
      (r.rs = r.branchComparand →
        exec (.beq a b tgt) s = .next { s with latchE := some r, pc := (w.setWidth 16).toInt - 1 } ∧
        exec (.bne a b tgt) s = .next { s with latchE := some r }) ∧
      (r.rs ≠ r.branchComparand →
        exec (.bne a b tgt) s = .next { s with latchE := some r, pc := (w.setWidth 16).toInt - 1 } ∧
        exec (.beq a b tgt) s = .next { s with latchE := some r })

/-- R222, R223, R93, R132 (D28): in every stage both complete: fetched like any line, then NOP empties the next latch and an
unknown mnemonic moves its record on; neither does anything else. -/
def Obligations.NopAndUnknown : Prop :=
  decodeImage 0 = .instr .nop ∧ decodeText [] = .instr .nop ∧
  Fetches (exec .nop) ∧ (∀ m, Fetches (passUnknown m)) ∧
  ∀ s : State,
    (s.stage = .decode → exec .nop s = .next { s with latchD := none }) ∧
    (s.stage = .execute → exec .nop s = .next { s with latchE := none }) ∧
    (s.stage = .memory → exec .nop s = .next { s with latchM := none }) ∧
    (s.stage = .writeBack → exec .nop s = .next s) ∧
    ∀ m,
      (∀ f, s.stage = .decode → s.latchF = some f →
        ∃ r, passUnknown m s = .next { s with latchD := some r } ∧ r.address = f.address ∧ r.raw = f.raw ∧
          r.opcode = .unknown m) ∧
      (s.stage = .execute → passUnknown m s = .next { s with latchE := s.latchD }) ∧
      (s.stage = .memory → passUnknown m s = .next { s with latchM := s.latchE }) ∧
      (s.stage = .writeBack → passUnknown m s = .next s)

/-- R122, R123: the write-back stage of every instruction: all write `result` to `rd` but NOP, SW, BEQ and BNE; an unknown
mnemonic does not. -/
def Obligations.WriteBackSet : Prop :=
  ∀ (i : Instr) (s : State), s.stage = .writeBack →
    (s.latchM = none → exec i s = .next s) ∧ (∀ m, passUnknown m s = .next s) ∧
    ((i = .nop ∨ (∃ t off b, i = .sw t off b) ∨ (∃ a b tgt, i = .beq a b tgt) ∨ (∃ a b tgt, i = .bne a b tgt)) →
      exec i s = .next s) ∧
    (i ≠ .nop → (∀ t off b, i ≠ .sw t off b) → (∀ a b tgt, i ≠ .beq a b tgt) → (∀ a b tgt, i ≠ .bne a b tgt) →
      ∀ r, s.latchM = some r → exec i s = .next (s.writeReg r.rd r.result))

/-! ## Frames -/

/-- R24, R122: no instruction changes a register outside write-back, and there at most `rd`; never register 0. -/
def Obligations.RegisterFrame : Prop :=
  ∀ (i : Instr) (s t : State), exec i s = .next t →
    t.baselineRegs = s.baselineRegs ∧ t.regs[0] = s.regs[0] ∧ (s.stage ≠ .writeBack → t.regs = s.regs) ∧
    ∀ k, (∀ r, s.stage = .writeBack → s.latchM = some r → i.writesBack = true → k ≠ r.rd) →
      t.readReg k = s.readReg k

/-- R50, R51, R66, R214: no instruction changes a byte of memory but SW in its memory stage, and there only the four bytes
from its effective address on; none changes the memory baseline or the Program Store. -/
def Obligations.MemoryFrame : Prop :=
  ∀ (i : Instr) (s t : State), exec i s = .next t →
    t.baselineMem = s.baselineMem ∧ t.prog = s.prog ∧
    ∀ a : Nat, (∀ r x off b, s.stage = .memory → s.latchE = some r → i = .sw x off b →
        (a : Int) < r.memoryAddress ∨ r.memoryAddress + 4 ≤ a) →
      t.mem.byteAt a = s.mem.byteAt a

/-- R25, R27, R30, R35 to R37: what else an instruction leaves unchanged in each stage: HI but for DIV in EX, the pc but for
fetch and a taken branch in EX, each latch but the one the stage writes. -/
def Obligations.ControlFrame : Prop :=
  ∀ (i : Instr) (s t : State), exec i s = .next t →
    t.config = s.config ∧ t.cycles = s.cycles ∧ t.runState = s.runState ∧ t.stage = s.stage ∧
    t.haltCause = s.haltCause ∧
    (t.hi ≠ s.hi → s.stage = .execute ∧ ∃ d a b, i = .div d a b) ∧
    (t.pc ≠ s.pc → s.stage = .fetch ∨ (s.stage = .execute ∧ i.isBranch = true)) ∧
    (s.stage ≠ .fetch → t.latchF = s.latchF ∧ t.currentLine = s.currentLine) ∧
    (s.stage ≠ .decode → t.latchD = s.latchD) ∧
    (s.stage ≠ .execute → t.latchE = s.latchE) ∧
    (s.stage ≠ .memory → t.latchM = s.latchM)

/-- The whole cycle: R24, R25, R63, R66: registers change only at the `rd` of the write-back instruction in M, memory only
in the four bytes of the SW in E, HI only by the DIV in D; store, baselines and parameters never. -/
def Obligations.CycleFrame : Prop :=
  ∀ s t : State, step s = .next t →
    t.config = s.config ∧ t.prog = s.prog ∧ t.baselineRegs = s.baselineRegs ∧ t.baselineMem = s.baselineMem ∧
    (∀ k, t.readReg k ≠ s.readReg k →
      ∃ r i, s.latchM = some r ∧ r.opcode = .known i ∧ i.writesBack = true ∧ r.rd = k ∧ t.readReg k = r.result) ∧
    (∀ a : Nat, t.mem.byteAt a ≠ s.mem.byteAt a →
      ∃ r x off b, s.latchE = some r ∧ r.opcode = .known (.sw x off b) ∧ 0 ≤ r.memoryAddress ∧
        r.memoryAddress + 4 ≤ s.config.memBytes ∧ r.memoryAddress ≤ a ∧ (a : Int) < r.memoryAddress + 4) ∧
    (t.hi ≠ s.hi → ∃ r d a b, s.latchD = some r ∧ r.opcode = .known (.div d a b))

/-! ## The pipeline -/

/-- R138, R275 (D6): the instruction decoded in a cycle reads the registers after that cycle's write-back; instructions
still in D and E have no influence on what it reads. -/
def Obligations.DecodeSeesSameCycleWriteBack : Prop :=
  ∀ (s t : State) (f : FetchRecord) (i : Instr), Evaluates s → s.latchF = some f → f.raw.decode = .instr i →
    i ≠ .nop → step s = .next t →
    ∃ r, t.latchD = some r ∧ r.opcode = .known i ∧ r.address = f.address ∧ r.raw = f.raw ∧
      OperandsRead (afterWriteBack s) i r

/-- R203, R204, R277 (D8): in the cycle a taken branch executes, the line after it goes on to D (one delay slot, no flush)
and the line `T - 1` is fetched; not taken, the next line is. -/
def Obligations.TakenBranchHasOneDelaySlot : Prop :=
  ∀ (s t : State) (r : Record) (w : Word) (i : Instr) (taken : Bool), Evaluates s → s.latchD = some r →
    r.rt = .value w → r.opcode = .known i →
    ((∃ a b tgt, i = .beq a b tgt ∧ (taken = true ↔ r.rs = r.branchComparand)) ∨
      (∃ a b tgt, i = .bne a b tgt ∧ (taken = true ↔ r.rs ≠ r.branchComparand))) →
    step s = .next t →
    t.latchE = some r ∧
    (s.latchF = none → t.latchD = none) ∧
    (∀ f, s.latchF = some f → f.raw.decode ≠ .instr .nop →
      ∃ r', t.latchD = some r' ∧ r'.address = f.address ∧ r'.raw = f.raw) ∧
    (taken = true → t.pc = (w.setWidth 16).toInt) ∧
    (taken = false → t.pc = s.pc + 1) ∧
    (∀ l, 0 < t.pc → s.prog[(t.pc - 1).toNat]? = some l → l.isBlank = false →
      t.latchF = some { address := t.pc - 1, raw := l }) ∧
    (t.pc ≤ 0 → t.latchF = none)

/-- R278: an MFHI in the slot after a DIV reads that DIV's remainder. -/
def Obligations.HighNeedsNoSpacing : Prop :=
  ∀ (s t : State) (rD : Record) (f : FetchRecord) (d a b d' : Nat), Evaluates s →
    s.cycles + 2 ≤ s.config.ceiling → s.latchD = some rD → rD.opcode = .known (.div d a b) →
    s.latchF = some f → f.raw.decode = .instr (.mfhi d') → advanceCycles 2 s = .next t →
    t.hi = divHigh s.config rD ∧
    ∃ rE, t.latchE = some rE ∧ rE.opcode = .known (.mfhi d') ∧ rE.rd = d' ∧ rE.result = divHigh s.config rD

/-- R213, R279, R63: an LW in the slot after an SW to the same address reads what it stored. -/
def Obligations.LoadSeesPrecedingStore : Prop :=
  ∀ (s t : State) (rS rL : Record) (x y bx by' : Nat) (ox oy : Lit), Evaluates s →
    s.cycles + 2 ≤ s.config.ceiling → s.mem.wf s.config.memBytes = true →
    s.latchE = some rS → rS.opcode = .known (.sw x ox bx) → s.latchD = some rL → rL.opcode = .known (.lw y oy by') →
    rL.memoryAddress = rS.memoryAddress → 0 ≤ rS.memoryAddress → rS.memoryAddress + 4 ≤ s.config.memBytes →
    advanceCycles 2 s = .next t →
    ∃ rM, t.latchM = some rM ∧ rM.opcode = rL.opcode ∧ rM.rd = rL.rd ∧ rM.result = rS.memoryValue

/-- R137, R160 to R170, R180 to R189, R211, R212, R220, R221: an instruction that passes the pipeline alone, five cycles from
fetch to write-back, has exactly the effect of its one-line reading, and makes exactly its reports. The place of the literal's
report of LW and SW in `lifeReports` is DEDUCED (log 12). -/
def Obligations.IsolatedInstructionHasItsEffect : Prop :=
  ∀ (s : State) (i : Instr), Ready s → s.cycles + 5 ≤ s.config.ceiling → i ≠ .nop → i.isBranch = false →
    LineIs s s.pc.toNat i →
    (∀ k l, s.prog[k]? = some l → s.pc.toNat < k → k ≤ s.pc.toNat + 4 → l.isBlank = true) →
    ∃ t, advanceCycles 5 s = .next t ∧
      t.regs = (settled i s).regs ∧ t.hi = (settled i s).hi ∧ t.mem = (settled i s).mem ∧
      t.reportLog = s.reportLog ++ lifeReports s.readReg i s ∧
      t.pc = s.pc + 5 ∧ t.cycles = s.cycles + 5 ∧ t.latchesEmpty = true ∧ t.runState = s.runState

/-- R275, R276, R278, R279: instruction C, `n` slots behind P and otherwise alone with it, reads registers as they were
before P for `n` 1 and 2 and as P left them for `n` 3 or more; HI and memory always as P left them; both write in order. -/
def Obligations.ReadAfterWriteDistance : Prop :=
  ∀ (s : State) (p c : Instr) (n : Nat), Ready s → 1 ≤ n → s.cycles + n + 5 ≤ s.config.ceiling →
    p ≠ .nop → c ≠ .nop → p.isBranch = false → c.isBranch = false →
    LineIs s s.pc.toNat p → LineIs s (s.pc.toNat + n) c →
    (∀ k l, s.prog[k]? = some l → s.pc.toNat < k → k ≤ s.pc.toNat + n + 4 → k ≠ s.pc.toNat + n →
      l.isBlank = true) →
    ∃ t, advanceCycles (n + 5) s = .next t ∧
      (let x := if n ≤ 2 then s.readReg else (settled p s).readReg
       t.regs = (effect x c (settled p s)).regs ∧ t.hi = (effect x c (settled p s)).hi ∧
       t.mem = (effect x c (settled p s)).mem)

/-- R270, R275, R281 a: a straight-line program with two blank lines after every instruction computes what its
instructions do one after another, and halts drained. That the cause is drained also where the ceiling is reached in the same
call is the model's choice (log 10). -/
def Obligations.SpacedProgramIsSequential : Prop :=
  ∀ (s : State) (ls : List Line) (is : List Instr) (n : Nat), Ready s → s.pc = 0 → s.cycles = 0 →
    s.prog = spaced ls → ls.map Line.decode = is.map .instr → (∀ i ∈ is, i.isBranch = false) →
    3 * is.length + 2 ≤ s.config.ceiling → 3 * is.length + 3 ≤ n →
    ∃ t, advanceCycles n s = .next t ∧ t.runState = .halted ∧ t.haltCause = some .drained ∧
      t.regs = (is.foldl (fun u i => settled i u) s).regs ∧
      t.hi = (is.foldl (fun u i => settled i u) s).hi ∧
      t.mem = (is.foldl (fun u i => settled i u) s).mem

/-- R282, R133: a program without branches whose last line that is not blank is line `k` evaluates `max(L, k + 5)` cycles, one
of blank lines only `L`, and the call after those halts, drained. That the cause is drained also where the ceiling is reached
in the same call is the model's choice (log 10). -/
def Obligations.BranchFreeProgramDrains : Prop :=
  ∀ (s : State) (n : Nat), Ready s → s.pc = 0 → s.cycles = 0 →
    (∀ l ∈ s.prog, l.wellFormed = true ∧ ∀ i, l.decode = .instr i → i.isBranch = false) →
    ((∃ k lk, s.prog[k]? = some lk ∧ lk.isBlank = false ∧ (∀ j l, k < j → s.prog[j]? = some l → l.isBlank = true) ∧
        n = max s.prog.length (k + 5)) ∨
      ((∀ l ∈ s.prog, l.isBlank = true) ∧ n = s.prog.length)) →
    n ≤ s.config.ceiling →
    ∃ t u, advanceCycles n s = .next t ∧ t.runState = s.runState ∧ t.cycles = n ∧
      step t = .next u ∧ u.runState = .halted ∧ u.haltCause = some .drained

/-- R36, R38, R230 (D36): nothing in the core reads past reports, the halt cause, or which of the run states that are not
`Halted` it is in. -/
def Obligations.ReportsAndRunStateDoNotInfluence : Prop :=
  ∀ s t : State, SameCore s t → (s.runState = .halted ↔ t.runState = .halted) →
    (∀ s', step s = .next s' → ∃ t', step t = .next t' ∧ SameCore s' t' ∧ s'.reports = t'.reports ∧
      (s'.runState = .halted ↔ t'.runState = .halted)) ∧
    (∀ e, step s = .fault e → step t = .fault e) ∧
    (∀ e, step s = .refused e → step t = .refused e)

/-! ## Boundary operations -/

/-- R260 (D13, D23; the sticky list, log 9): `reset()` gives the power-on values to everything but store, baselines and
parameters, and twice is once. -/
def Obligations.ResetOperation : Prop :=
  ∀ s : State,
    s.resetOp = { State.reset with
      config := s.config, prog := s.prog, baselineRegs := s.baselineRegs, baselineMem := s.baselineMem } ∧
    s.resetOp.resetOp = s.resetOp

/-- R262, R264 (D24, D25): `stop()` clears the pipeline state only, `loadProgram` replaces the store only, by the normalised
lines; a line is blank after that when it holds white space and a comment only (R81). Which characters are white space is the
model's choice (log 14), as are the emptied halt cause (log 10) and the kept sticky list (log 9) after `stop()`. -/
def Obligations.StopAndLoadProgram : Prop :=
  ∀ (s : State) (lines : List (List Char)),
    s.stopOp = { s with
      latchF := none, latchD := none, latchE := none, latchM := none, pc := 0, cycles := 0, currentLine := none
      runState := .idle, stage := .writeBack, reports := [], haltCause := none } ∧
    s.loadProgram lines = { s with prog := (s.loadProgram lines).prog, reports := [] } ∧
    (s.loadProgram lines).prog.length = lines.length ∧
    ∀ (k : Nat) (line : List Char), lines[k]? = some line → (s.loadProgram lines).prog[k]? = some (Line.text (normalise line)) ∧
      ((Line.text (normalise line)).isBlank = true ↔
        ∀ c ∈ line.takeWhile (· != '#'), isSpace c = true)

/-- R267, R268, R39 (D22): `snapshot()` changes the baselines only; `restore()` brings back what `snapshot()` saved, after any number of cycles and a `reset()`, and
touches nothing else; register 0 is 0 after it in any case. -/
def Obligations.SnapshotThenRestore : Prop :=
  ∀ (s t : State) (n : Nat), advanceCycles n s.snapshot = .next t →
    ((∀ k, t.restore.readReg k = s.readReg k) ∧ t.restore.mem = s.mem ∧
      (∀ k, t.resetOp.restore.readReg k = s.readReg k) ∧ t.resetOp.restore.mem = s.mem) ∧
    t.restore = { t with regs := t.restore.regs, mem := t.restore.mem, reports := [] } ∧
    t.restore.regs[0] = 0 ∧
    s.snapshot = { s with baselineRegs := s.regs, baselineMem := s.mem, reports := [] }

/-- R261, R263, R265 (D36): `n` cycles of `run()` give the same core as `n` calls of `stepOnce()`; an idle core that is stepped
is idle again unless halted. -/
def Obligations.RunIsRepeatedStepOnce : Prop :=
  ∀ (n : Nat) (s t : State), s.runState = .idle → runFor n s = .next t →
    ∃ u, stepOnceTimes n s = .next u ∧ SameCore t u ∧ (t.runState = .halted ↔ u.runState = .halted) ∧
      (u.runState = .idle ∨ u.runState = .halted)

/-- R64, R246, R266, R22: host accesses use the ports, between cycles, with the ports' values and reports, and leave latches, pc,
HI, store and counters alone; a read leaves registers and memory as they were, a register write memory and a word write the
registers; register 0 reads 0 whatever was written. -/
def Obligations.HostAccess : Prop :=
  ∀ (s : State) (i : Nat) (a v : Int),
    (s.hostReadRegister i).1 = s.readReg i ∧
    (s.hostReadRegister i).2.reports = registerReports i ∧
    (s.hostReadWord a).1 = s.readWord a ∧
    (s.hostReadWord a).2.reports = s.accessReports a ∧
    (s.hostWriteRegister i v).reports = registerReports i ∧
    (s.hostWriteWord a v).reports = s.accessReports a ∧
    ((s.hostWriteRegister 0 v).hostReadRegister 0).1 = 0 ∧
    (∀ t, (t = (s.hostReadRegister i).2 ∨ t = (s.hostReadWord a).2 ∨ t = s.hostWriteRegister i v ∨
        t = s.hostWriteWord a v) →
      t = { s with regs := t.regs, mem := t.mem, reports := t.reports, reportLog := t.reportLog }) ∧
    (s.hostReadRegister i).2.regs = s.regs ∧ (s.hostReadRegister i).2.mem = s.mem ∧
    (s.hostReadWord a).2.regs = s.regs ∧ (s.hostReadWord a).2.mem = s.mem ∧
    (s.hostWriteRegister i v).mem = s.mem ∧ (s.hostWriteWord a v).regs = s.regs

/-! ## A word placed for the next step -/

/-- R120, R137 (how a word comes to run in one step: the model's choice, log 7): with a word placed, the very next step is a
cycle with that instruction in front of each of the five stages, on the registers, HI and memory of before. -/
def Obligations.PlacedWordRunsAtTheNextStep : Prop :=
  ∀ (s : State) (w : BitVec 32) (i : Instr), decodeImage w = .instr i → s.config.defaultPolicies = true →
    0 < s.config.ceiling →
    let t := s.withFetchWord 32 w.toNat
    Evaluates t ∧ latchSlot t.latchM = .instr i ∧ latchSlot t.latchE = .instr i ∧ latchSlot t.latchD = .instr i ∧
      fetchSlot t.latchF = .instr i ∧ t.lineAtPc.map Line.decode = some (.instr i) ∧
      t.regs = s.regs ∧ t.hi = s.hi ∧ t.mem = s.mem ∧ ∃ u, step t = .next u
end

