-- ==== Sys2Proof/Laws/Memory.lean ====
section
/-! SUPPORT. The byte laws of the data memory: read after write, and that every memory operation keeps the canonical
form. -/

namespace Sys2Proof.Machine

namespace Memory

@[simp] theorem byteAt_nil (a : Nat) : byteAt [] a = 0 := rfl

theorem byteAt_cons (k : Nat) (x : Byte) (m : Memory) (a : Nat) :
    byteAt ((k, x) :: m) a = if k = a then x else byteAt m a := rfl

/-- Raising nothing: a canonical memory from `lo` is canonical from every lower bound. -/
theorem wfFrom_mono {size lo lo' : Nat} (h : lo' ≤ lo) :
    ∀ {m : Memory}, wfFrom size lo m = true → wfFrom size lo' m = true
  | [], _ => rfl
  | (k, x) :: m, hw => by
    simp only [wfFrom, Bool.and_eq_true, decide_eq_true_eq] at hw ⊢
    exact ⟨⟨⟨Nat.le_trans h hw.1.1.1, hw.1.1.2⟩, hw.1.2⟩, hw.2⟩

/-- Below the lower bound nothing is listed. -/
theorem byteAt_of_lt {size : Nat} : ∀ {lo : Nat} {m : Memory} {a : Nat},
    wfFrom size lo m = true → a < lo → byteAt m a = 0
  | _, [], _, _, _ => rfl
  | lo, (k, x) :: m, a, hw, ha => by
    simp only [wfFrom, Bool.and_eq_true, decide_eq_true_eq] at hw
    have hk : k ≠ a := by omega
    rw [byteAt_cons, if_neg hk]
    exact byteAt_of_lt hw.2 (by omega)

/-- A byte set is the byte read there, in every canonical memory. -/
theorem byteAt_setByte_self {size : Nat} (a : Nat) (v : Byte) : ∀ {lo : Nat} {m : Memory},
    wfFrom size lo m = true → byteAt (setByte m a v) a = v
  | _, [], _ => by
    unfold setByte
    by_cases hv : v = 0
    · rw [if_pos hv, hv]; rfl
    · rw [if_neg hv, byteAt_cons, if_pos rfl]
  | lo, (k, x) :: m, hw => by
    simp only [wfFrom, Bool.and_eq_true, decide_eq_true_eq] at hw
    unfold setByte
    by_cases h1 : a < k
    · rw [if_pos h1]
      by_cases hv : v = 0
      · rw [if_pos hv, byteAt_cons, if_neg (by omega), byteAt_of_lt hw.2 (by omega), hv]
      · rw [if_neg hv, byteAt_cons, if_pos rfl]
    · rw [if_neg h1]
      by_cases h2 : a = k
      · rw [if_pos h2]
        by_cases hv : v = 0
        · rw [if_pos hv, byteAt_of_lt hw.2 (by omega), hv]
        · rw [if_neg hv, byteAt_cons, if_pos rfl]
      · rw [if_neg h2, byteAt_cons, if_neg (Ne.symm h2)]
        exact byteAt_setByte_self a v hw.2

/-- Every other byte reads as before, in every memory. -/
theorem byteAt_setByte_of_ne {a b : Nat} (h : b ≠ a) (v : Byte) : ∀ (m : Memory),
    byteAt (setByte m a v) b = byteAt m b
  | [] => by
    unfold setByte
    by_cases hv : v = 0
    · rw [if_pos hv]
    · rw [if_neg hv, byteAt_cons, if_neg (Ne.symm h)]
  | (k, x) :: m => by
    unfold setByte
    by_cases h1 : a < k
    · rw [if_pos h1]
      by_cases hv : v = 0
      · rw [if_pos hv]
      · rw [if_neg hv, byteAt_cons, if_neg (Ne.symm h)]
    · rw [if_neg h1]
      by_cases h2 : a = k
      · rw [if_pos h2]
        subst h2
        by_cases hv : v = 0
        · rw [if_pos hv, byteAt_cons, if_neg (Ne.symm h)]
        · rw [if_neg hv, byteAt_cons, byteAt_cons, if_neg (Ne.symm h), if_neg (Ne.symm h)]
      · rw [if_neg h2, byteAt_cons, byteAt_cons, byteAt_setByte_of_ne h v m]

/-- Setting a byte below the size keeps the canonical form. -/
theorem wfFrom_setByte {size a : Nat} (v : Byte) (ha : a < size) : ∀ {lo : Nat} {m : Memory},
    lo ≤ a → wfFrom size lo m = true → wfFrom size lo (setByte m a v) = true
  | lo, [], hlo, _ => by
    unfold setByte
    by_cases hv : v = 0
    · rw [if_pos hv]; rfl
    · rw [if_neg hv]
      simp only [wfFrom, Bool.and_eq_true, decide_eq_true_eq, bne_iff_ne, ne_eq]
      exact ⟨⟨⟨hlo, ha⟩, hv⟩, trivial⟩
  | lo, (k, x) :: m, hlo, hw => by
    have hw' := hw
    simp only [wfFrom, Bool.and_eq_true, decide_eq_true_eq] at hw
    unfold setByte
    by_cases h1 : a < k
    · rw [if_pos h1]
      by_cases hv : v = 0
      · rw [if_pos hv]; exact hw'
      · rw [if_neg hv]
        simp only [wfFrom, Bool.and_eq_true, decide_eq_true_eq, bne_iff_ne, ne_eq]
        exact ⟨⟨⟨hlo, ha⟩, hv⟩, ⟨⟨by omega, hw.1.1.2⟩, by simpa using hw.1.2⟩, hw.2⟩
    · rw [if_neg h1]
      by_cases h2 : a = k
      · rw [if_pos h2]
        subst h2
        by_cases hv : v = 0
        · rw [if_pos hv]; exact wfFrom_mono (by omega) hw.2
        · rw [if_neg hv]
          simp only [wfFrom, Bool.and_eq_true, decide_eq_true_eq, bne_iff_ne, ne_eq]
          exact ⟨⟨⟨hlo, ha⟩, hv⟩, hw.2⟩
      · rw [if_neg h2]
        simp only [wfFrom, Bool.and_eq_true, decide_eq_true_eq]
        exact ⟨⟨⟨hw.1.1.1, hw.1.1.2⟩, hw.1.2⟩, wfFrom_setByte v ha (by omega) hw.2⟩

/-- Setting a byte below the size keeps the canonical form of the data memory. -/
theorem wf_setByte {size a : Nat} {m : Memory} (v : Byte) (ha : a < size) (hm : m.wf size = true) :
    (m.setByte a v).wf size = true := wfFrom_setByte v ha (Nat.zero_le a) hm

theorem byteAt_setByte {size a b : Nat} {m : Memory} (v : Byte) (hm : m.wf size = true) :
    (m.setByte a v).byteAt b = if b = a then v else m.byteAt b := by
  by_cases h : b = a
  · subst h; rw [if_pos rfl]; exact byteAt_setByte_self b v hm
  · rw [if_neg h]; exact byteAt_setByte_of_ne h v m

/-- Storing a word inside the memory keeps the canonical form. -/
theorem wf_setWord {size a : Nat} {m : Memory} (w : Word) (ha : a + 4 ≤ size) (hm : m.wf size = true) :
    (m.setWord a w).wf size = true :=
  wf_setByte _ (by omega) (wf_setByte _ (by omega) (wf_setByte _ (by omega) (wf_setByte _ (by omega) hm)))

/-- A word store changes its four bytes only. -/
theorem byteAt_setWord_outside {a b : Nat} (m : Memory) (w : Word) (h : b < a ∨ a + 4 ≤ b) :
    (m.setWord a w).byteAt b = m.byteAt b := by
  unfold setWord
  rw [byteAt_setByte_of_ne (by omega), byteAt_setByte_of_ne (by omega), byteAt_setByte_of_ne (by omega),
    byteAt_setByte_of_ne (by omega)]

end Memory

/-- The bounds check passes exactly for `0 <= a <= MEM_BYTES - 4` (R56). -/
theorem boundsReport_eq_none (n : Nat) (a : Int) : boundsReport n a = none ↔ 0 ≤ a ∧ a + 4 ≤ n := by
  unfold boundsReport
  by_cases h1 : a < 0 ∨ (n : Int) ≤ a
  · rw [if_pos h1]; simp; omega
  · rw [if_neg h1]
    by_cases h2 : (n : Int) < a + 4
    · rw [if_pos h2]; simp; omega
    · rw [if_neg h2]; simp; omega

/-- What `writeWord` does to memory (R58): nothing, or the word at a valid address. -/
theorem State.storeWord_cases (s : State) (a : Int) (w : Word) :
    ((∃ e, boundsReport s.config.memBytes a = some e) ∧ s.storeWord a w = s.mem) ∨
    (boundsReport s.config.memBytes a = none ∧ 0 ≤ a ∧ a.toNat + 4 ≤ s.config.memBytes ∧
      s.storeWord a w = s.mem.setWord a.toNat w) := by
  unfold State.storeWord
  cases h : boundsReport s.config.memBytes a with
  | some e => exact .inl ⟨⟨e, rfl⟩, rfl⟩
  | none =>
    have := (boundsReport_eq_none _ _).mp h
    exact .inr ⟨rfl, this.1, by omega, rfl⟩

/-- A word write keeps the canonical form. -/
theorem State.wf_storeWord (s : State) (a : Int) (w : Word) (h : s.mem.wf s.config.memBytes = true) :
    Memory.wf s.config.memBytes (s.storeWord a w) = true := by
  obtain ⟨-, e⟩ | ⟨-, -, hb, e⟩ := s.storeWord_cases a w
  · rw [e]; exact h
  · rw [e]; exact Memory.wf_setWord w hb h

/-- A word write leaves every byte outside its four as it was. -/
theorem State.byteAt_storeWord_outside (s : State) (a : Int) (w : Word) (b : Nat)
    (h : (b : Int) < a ∨ a + 4 ≤ b) : Memory.byteAt (s.storeWord a w) b = s.mem.byteAt b := by
  obtain ⟨-, e⟩ | ⟨-, h0, -, e⟩ := s.storeWord_cases a w
  · rw [e]
  · rw [e]; exact Memory.byteAt_setWord_outside _ _ (by omega)

/-- The memory at reset is canonical. -/
theorem reset_mem_wf : State.reset.mem.wf State.reset.config.memBytes = true := rfl

end Sys2Proof.Machine
end

