-- ==== Sys2Proof/Laws/PerInstr.lean ====
section
/-! SUPPORT. The fields of an image word, and the family OpField: the image of a well-formed instruction carries the
instruction's op number in bits 31:26 (30_encoding.md R98). -/

namespace Sys2Proof.Laws

theorem toNat_imageWord {op x y low : Nat} (h0 : op < 64) (h1 : x < 32) (h2 : y < 32) (h3 : low < 65536) :
    (imageWord op x y low).toNat = op * 2 ^ 26 + x * 2 ^ 21 + y * 2 ^ 16 + low := by
  unfold imageWord
  rw [BitVec.toNat_ofNat]
  apply Nat.mod_eq_of_lt
  omega

theorem field_op {op x y low : Nat} (h0 : op < 64) (h1 : x < 32) (h2 : y < 32) (h3 : low < 65536) :
    field (imageWord op x y low) 26 6 = op := by
  unfold field; rw [toNat_imageWord h0 h1 h2 h3]; omega

theorem field_first {op x y low : Nat} (h0 : op < 64) (h1 : x < 32) (h2 : y < 32) (h3 : low < 65536) :
    field (imageWord op x y low) 21 5 = x := by
  unfold field; rw [toNat_imageWord h0 h1 h2 h3]; omega

theorem field_second {op x y low : Nat} (h0 : op < 64) (h1 : x < 32) (h2 : y < 32) (h3 : low < 65536) :
    field (imageWord op x y low) 16 5 = y := by
  unfold field; rw [toNat_imageWord h0 h1 h2 h3]; omega

theorem field_low {op x y low : Nat} (h0 : op < 64) (h1 : x < 32) (h2 : y < 32) (h3 : low < 65536) :
    field (imageWord op x y low) 0 16 = low := by
  unfold field; rw [toNat_imageWord h0 h1 h2 h3]; omega

/-- The image of the instruction has its op number in bits 31:26 (R98). -/
def OpField.Statement (i : Instr) : Prop := i.wf = true → field (encode i) 26 6 = i.op

theorem op_lt (i : Instr) : i.op < 64 := by cases i <;> simp [Instr.op]

theorem regWf_iff (n : Nat) : regWf n = true ↔ n < 32 := by simp [regWf]

theorem OpField.nop : OpField.Statement .nop := by intro _; rfl

theorem OpField.add (d s t : Nat) : OpField.Statement (.add d s t) := by
  intro h
  simp only [Instr.wf, Bool.and_eq_true, regWf_iff] at h
  exact field_op (op_lt _) h.1.1 h.1.2 (by omega)

theorem OpField.sub (d s t : Nat) : OpField.Statement (.sub d s t) := by
  intro h
  simp only [Instr.wf, Bool.and_eq_true, regWf_iff] at h
  exact field_op (op_lt _) h.1.1 h.1.2 (by omega)

theorem OpField.mul (d s t : Nat) : OpField.Statement (.mul d s t) := by
  intro h
  simp only [Instr.wf, Bool.and_eq_true, regWf_iff] at h
  exact field_op (op_lt _) h.1.1 h.1.2 (by omega)

theorem OpField.mulu (d s t : Nat) : OpField.Statement (.mulu d s t) := by
  intro h
  simp only [Instr.wf, Bool.and_eq_true, regWf_iff] at h
  exact field_op (op_lt _) h.1.1 h.1.2 (by omega)

theorem OpField.div (d s t : Nat) : OpField.Statement (.div d s t) := by
  intro h
  simp only [Instr.wf, Bool.and_eq_true, regWf_iff] at h
  exact field_op (op_lt _) h.1.1 h.1.2 (by omega)

theorem OpField.divu (d s t : Nat) : OpField.Statement (.divu d s t) := by
  intro h
  simp only [Instr.wf, Bool.and_eq_true, regWf_iff] at h
  exact field_op (op_lt _) h.1.1 h.1.2 (by omega)

theorem OpField.and (d s t : Nat) : OpField.Statement (.and d s t) := by
  intro h
  simp only [Instr.wf, Bool.and_eq_true, regWf_iff] at h
  exact field_op (op_lt _) h.1.1 h.1.2 (by omega)

theorem OpField.or (d s t : Nat) : OpField.Statement (.or d s t) := by
  intro h
  simp only [Instr.wf, Bool.and_eq_true, regWf_iff] at h
  exact field_op (op_lt _) h.1.1 h.1.2 (by omega)

theorem OpField.xor (d s t : Nat) : OpField.Statement (.xor d s t) := by
  intro h
  simp only [Instr.wf, Bool.and_eq_true, regWf_iff] at h
  exact field_op (op_lt _) h.1.1 h.1.2 (by omega)

theorem OpField.nor (d s t : Nat) : OpField.Statement (.nor d s t) := by
  intro h
  simp only [Instr.wf, Bool.and_eq_true, regWf_iff] at h
  exact field_op (op_lt _) h.1.1 h.1.2 (by omega)

theorem OpField.sll (d s t : Nat) : OpField.Statement (.sll d s t) := by
  intro h
  simp only [Instr.wf, Bool.and_eq_true, regWf_iff] at h
  exact field_op (op_lt _) h.1.1 h.1.2 (by omega)

theorem OpField.srl (d s t : Nat) : OpField.Statement (.srl d s t) := by
  intro h
  simp only [Instr.wf, Bool.and_eq_true, regWf_iff] at h
  exact field_op (op_lt _) h.1.1 h.1.2 (by omega)

theorem OpField.addi (d s : Nat) (imm : Lit) : OpField.Statement (.addi d s imm) := by
  intro h
  simp only [Instr.wf, Bool.and_eq_true, regWf_iff] at h
  exact field_op (op_lt _) h.1.1 h.1.2 imm.value.isLt

theorem OpField.subi (d s : Nat) (imm : Lit) : OpField.Statement (.subi d s imm) := by
  intro h
  simp only [Instr.wf, Bool.and_eq_true, regWf_iff] at h
  exact field_op (op_lt _) h.1.1 h.1.2 imm.value.isLt

theorem OpField.andi (d s : Nat) (imm : Lit) : OpField.Statement (.andi d s imm) := by
  intro h
  simp only [Instr.wf, Bool.and_eq_true, regWf_iff] at h
  exact field_op (op_lt _) h.1.1 h.1.2 imm.value.isLt

theorem OpField.ori (d s : Nat) (imm : Lit) : OpField.Statement (.ori d s imm) := by
  intro h
  simp only [Instr.wf, Bool.and_eq_true, regWf_iff] at h
  exact field_op (op_lt _) h.1.1 h.1.2 imm.value.isLt

theorem OpField.xori (d s : Nat) (imm : Lit) : OpField.Statement (.xori d s imm) := by
  intro h
  simp only [Instr.wf, Bool.and_eq_true, regWf_iff] at h
  exact field_op (op_lt _) h.1.1 h.1.2 imm.value.isLt

theorem OpField.sllImm (d s : Nat) (imm : Lit) : OpField.Statement (.sllImm d s imm) := by
  intro h
  simp only [Instr.wf, Bool.and_eq_true, regWf_iff] at h
  exact field_op (op_lt _) h.1.1 h.1.2 imm.value.isLt

theorem OpField.srlImm (d s : Nat) (imm : Lit) : OpField.Statement (.srlImm d s imm) := by
  intro h
  simp only [Instr.wf, Bool.and_eq_true, regWf_iff] at h
  exact field_op (op_lt _) h.1.1 h.1.2 imm.value.isLt

theorem OpField.mfhi (d : Nat) : OpField.Statement (.mfhi d) := by
  intro h
  simp only [Instr.wf, regWf_iff] at h
  exact field_op (op_lt _) h (by decide) (by decide)

theorem OpField.lw (t : Nat) (off : Lit) (b : Nat) : OpField.Statement (.lw t off b) := by
  intro h
  simp only [Instr.wf, Bool.and_eq_true, regWf_iff] at h
  exact field_op (op_lt _) h.1.1 h.2 off.value.isLt

theorem OpField.sw (t : Nat) (off : Lit) (b : Nat) : OpField.Statement (.sw t off b) := by
  intro h
  simp only [Instr.wf, Bool.and_eq_true, regWf_iff] at h
  exact field_op (op_lt _) h.1.1 h.2 off.value.isLt

theorem OpField.li (d : Nat) (imm : Lit) : OpField.Statement (.li d imm) := by
  intro h
  simp only [Instr.wf, Bool.and_eq_true, regWf_iff] at h
  exact field_op (op_lt _) h.1 (by decide) imm.value.isLt

theorem OpField.lui (d : Nat) (imm : Lit) : OpField.Statement (.lui d imm) := by
  intro h
  simp only [Instr.wf, Bool.and_eq_true, regWf_iff] at h
  exact field_op (op_lt _) h.1 (by decide) imm.value.isLt

theorem OpField.beq (a b : Nat) (tgt : Lit) : OpField.Statement (.beq a b tgt) := by
  intro h
  simp only [Instr.wf, Bool.and_eq_true, regWf_iff] at h
  exact field_op (op_lt _) h.1.1 h.1.2 tgt.value.isLt

theorem OpField.bne (a b : Nat) (tgt : Lit) : OpField.Statement (.bne a b tgt) := by
  intro h
  simp only [Instr.wf, Bool.and_eq_true, regWf_iff] at h
  exact field_op (op_lt _) h.1.1 h.1.2 tgt.value.isLt

end Sys2Proof.Laws
end

