-- ==== Sys2Proof/Laws/State.lean ====
section
/-! SUPPORT. One lemma for each field under each named update of State, so that no proof unfolds an update. -/

namespace Sys2Proof.Machine

variable (s : State)

/-! ## Reports -/

@[simp] theorem State.report_config (ks : List Report) : (s.report ks).config = s.config := rfl
@[simp] theorem State.report_regs (ks : List Report) : (s.report ks).regs = s.regs := rfl
@[simp] theorem State.report_hi (ks : List Report) : (s.report ks).hi = s.hi := rfl
@[simp] theorem State.report_pc (ks : List Report) : (s.report ks).pc = s.pc := rfl
@[simp] theorem State.report_prog (ks : List Report) : (s.report ks).prog = s.prog := rfl
@[simp] theorem State.report_latchF (ks : List Report) : (s.report ks).latchF = s.latchF := rfl
@[simp] theorem State.report_latchD (ks : List Report) : (s.report ks).latchD = s.latchD := rfl
@[simp] theorem State.report_latchE (ks : List Report) : (s.report ks).latchE = s.latchE := rfl
@[simp] theorem State.report_latchM (ks : List Report) : (s.report ks).latchM = s.latchM := rfl
@[simp] theorem State.report_mem (ks : List Report) : (s.report ks).mem = s.mem := rfl
@[simp] theorem State.report_cycles (ks : List Report) : (s.report ks).cycles = s.cycles := rfl
@[simp] theorem State.report_runState (ks : List Report) : (s.report ks).runState = s.runState := rfl
@[simp] theorem State.report_currentLine (ks : List Report) : (s.report ks).currentLine = s.currentLine := rfl
@[simp] theorem State.report_baselineRegs (ks : List Report) : (s.report ks).baselineRegs = s.baselineRegs := rfl
@[simp] theorem State.report_baselineMem (ks : List Report) : (s.report ks).baselineMem = s.baselineMem := rfl
@[simp] theorem State.report_stage (ks : List Report) : (s.report ks).stage = s.stage := rfl
@[simp] theorem State.report_reports (ks : List Report) : (s.report ks).reports = s.reports ++ ks := rfl
@[simp] theorem State.report_reportLog (ks : List Report) : (s.report ks).reportLog = s.reportLog ++ ks := rfl
@[simp] theorem State.report_haltCause (ks : List Report) : (s.report ks).haltCause = s.haltCause := rfl

/-! ## Clearing the pipeline -/

@[simp] theorem State.clearPipeline_config : (s.clearPipeline).config = s.config := rfl
@[simp] theorem State.clearPipeline_regs : (s.clearPipeline).regs = s.regs := rfl
@[simp] theorem State.clearPipeline_hi : (s.clearPipeline).hi = s.hi := rfl
@[simp] theorem State.clearPipeline_pc : (s.clearPipeline).pc = 0 := rfl
@[simp] theorem State.clearPipeline_prog : (s.clearPipeline).prog = s.prog := rfl
@[simp] theorem State.clearPipeline_latchF : (s.clearPipeline).latchF = none := rfl
@[simp] theorem State.clearPipeline_latchD : (s.clearPipeline).latchD = none := rfl
@[simp] theorem State.clearPipeline_latchE : (s.clearPipeline).latchE = none := rfl
@[simp] theorem State.clearPipeline_latchM : (s.clearPipeline).latchM = none := rfl
@[simp] theorem State.clearPipeline_mem : (s.clearPipeline).mem = s.mem := rfl
@[simp] theorem State.clearPipeline_cycles : (s.clearPipeline).cycles = 0 := rfl
@[simp] theorem State.clearPipeline_runState : (s.clearPipeline).runState = s.runState := rfl
@[simp] theorem State.clearPipeline_currentLine : (s.clearPipeline).currentLine = none := rfl
@[simp] theorem State.clearPipeline_baselineRegs : (s.clearPipeline).baselineRegs = s.baselineRegs := rfl
@[simp] theorem State.clearPipeline_baselineMem : (s.clearPipeline).baselineMem = s.baselineMem := rfl
@[simp] theorem State.clearPipeline_stage : (s.clearPipeline).stage = .writeBack := rfl
@[simp] theorem State.clearPipeline_reports : (s.clearPipeline).reports = s.reports := rfl
@[simp] theorem State.clearPipeline_reportLog : (s.clearPipeline).reportLog = s.reportLog := rfl
@[simp] theorem State.clearPipeline_haltCause : (s.clearPipeline).haltCause = s.haltCause := rfl

/-! ## The halt transition -/

@[simp] theorem State.haltTransition_config : (s.haltTransition).config = s.config := rfl
@[simp] theorem State.haltTransition_regs : (s.haltTransition).regs = s.regs := rfl
@[simp] theorem State.haltTransition_hi : (s.haltTransition).hi = s.hi := rfl
@[simp] theorem State.haltTransition_pc : (s.haltTransition).pc = 0 := rfl
@[simp] theorem State.haltTransition_prog : (s.haltTransition).prog = s.prog := rfl
@[simp] theorem State.haltTransition_latchF : (s.haltTransition).latchF = none := rfl
@[simp] theorem State.haltTransition_latchD : (s.haltTransition).latchD = none := rfl
@[simp] theorem State.haltTransition_latchE : (s.haltTransition).latchE = none := rfl
@[simp] theorem State.haltTransition_latchM : (s.haltTransition).latchM = none := rfl
@[simp] theorem State.haltTransition_mem : (s.haltTransition).mem = s.mem := rfl
@[simp] theorem State.haltTransition_cycles : (s.haltTransition).cycles = 0 := rfl
@[simp] theorem State.haltTransition_runState : (s.haltTransition).runState = .halted := rfl
@[simp] theorem State.haltTransition_currentLine : (s.haltTransition).currentLine = none := rfl
@[simp] theorem State.haltTransition_baselineRegs : (s.haltTransition).baselineRegs = s.baselineRegs := rfl
@[simp] theorem State.haltTransition_baselineMem : (s.haltTransition).baselineMem = s.baselineMem := rfl
@[simp] theorem State.haltTransition_stage : (s.haltTransition).stage = .writeBack := rfl
@[simp] theorem State.haltTransition_reports : (s.haltTransition).reports = s.reports := rfl
@[simp] theorem State.haltTransition_reportLog : (s.haltTransition).reportLog = s.reportLog := rfl
@[simp] theorem State.haltTransition_haltCause : (s.haltTransition).haltCause = some (if s.drained then .drained else .ceiling) := rfl

/-! ## The start of a host operation -/

@[simp] theorem State.beginOp_config : (s.beginOp).config = s.config := rfl
@[simp] theorem State.beginOp_regs : (s.beginOp).regs = s.regs := rfl
@[simp] theorem State.beginOp_hi : (s.beginOp).hi = s.hi := rfl
@[simp] theorem State.beginOp_pc : (s.beginOp).pc = s.pc := rfl
@[simp] theorem State.beginOp_prog : (s.beginOp).prog = s.prog := rfl
@[simp] theorem State.beginOp_latchF : (s.beginOp).latchF = s.latchF := rfl
@[simp] theorem State.beginOp_latchD : (s.beginOp).latchD = s.latchD := rfl
@[simp] theorem State.beginOp_latchE : (s.beginOp).latchE = s.latchE := rfl
@[simp] theorem State.beginOp_latchM : (s.beginOp).latchM = s.latchM := rfl
@[simp] theorem State.beginOp_mem : (s.beginOp).mem = s.mem := rfl
@[simp] theorem State.beginOp_cycles : (s.beginOp).cycles = s.cycles := rfl
@[simp] theorem State.beginOp_runState : (s.beginOp).runState = s.runState := rfl
@[simp] theorem State.beginOp_currentLine : (s.beginOp).currentLine = s.currentLine := rfl
@[simp] theorem State.beginOp_baselineRegs : (s.beginOp).baselineRegs = s.baselineRegs := rfl
@[simp] theorem State.beginOp_baselineMem : (s.beginOp).baselineMem = s.baselineMem := rfl
@[simp] theorem State.beginOp_stage : (s.beginOp).stage = s.stage := rfl
@[simp] theorem State.beginOp_reports : (s.beginOp).reports = [] := rfl
@[simp] theorem State.beginOp_reportLog : (s.beginOp).reportLog = s.reportLog := rfl
@[simp] theorem State.beginOp_haltCause : (s.beginOp).haltCause = s.haltCause := rfl

/-! ## `reset()` -/

@[simp] theorem State.resetOp_config : (s.resetOp).config = s.config := rfl
@[simp] theorem State.resetOp_regs : (s.resetOp).regs = Vector.replicate 32 0 := rfl
@[simp] theorem State.resetOp_hi : (s.resetOp).hi = 0 := rfl
@[simp] theorem State.resetOp_pc : (s.resetOp).pc = 0 := rfl
@[simp] theorem State.resetOp_prog : (s.resetOp).prog = s.prog := rfl
@[simp] theorem State.resetOp_latchF : (s.resetOp).latchF = none := rfl
@[simp] theorem State.resetOp_latchD : (s.resetOp).latchD = none := rfl
@[simp] theorem State.resetOp_latchE : (s.resetOp).latchE = none := rfl
@[simp] theorem State.resetOp_latchM : (s.resetOp).latchM = none := rfl
@[simp] theorem State.resetOp_mem : (s.resetOp).mem = [] := rfl
@[simp] theorem State.resetOp_cycles : (s.resetOp).cycles = 0 := rfl
@[simp] theorem State.resetOp_runState : (s.resetOp).runState = .idle := rfl
@[simp] theorem State.resetOp_currentLine : (s.resetOp).currentLine = none := rfl
@[simp] theorem State.resetOp_baselineRegs : (s.resetOp).baselineRegs = s.baselineRegs := rfl
@[simp] theorem State.resetOp_baselineMem : (s.resetOp).baselineMem = s.baselineMem := rfl
@[simp] theorem State.resetOp_stage : (s.resetOp).stage = .writeBack := rfl
@[simp] theorem State.resetOp_reports : (s.resetOp).reports = [] := rfl
@[simp] theorem State.resetOp_reportLog : (s.resetOp).reportLog = [] := rfl
@[simp] theorem State.resetOp_haltCause : (s.resetOp).haltCause = none := rfl

/-! ## `stop()` -/

@[simp] theorem State.stopOp_config : (s.stopOp).config = s.config := rfl
@[simp] theorem State.stopOp_regs : (s.stopOp).regs = s.regs := rfl
@[simp] theorem State.stopOp_hi : (s.stopOp).hi = s.hi := rfl
@[simp] theorem State.stopOp_pc : (s.stopOp).pc = 0 := rfl
@[simp] theorem State.stopOp_prog : (s.stopOp).prog = s.prog := rfl
@[simp] theorem State.stopOp_latchF : (s.stopOp).latchF = none := rfl
@[simp] theorem State.stopOp_latchD : (s.stopOp).latchD = none := rfl
@[simp] theorem State.stopOp_latchE : (s.stopOp).latchE = none := rfl
@[simp] theorem State.stopOp_latchM : (s.stopOp).latchM = none := rfl
@[simp] theorem State.stopOp_mem : (s.stopOp).mem = s.mem := rfl
@[simp] theorem State.stopOp_cycles : (s.stopOp).cycles = 0 := rfl
@[simp] theorem State.stopOp_runState : (s.stopOp).runState = .idle := rfl
@[simp] theorem State.stopOp_currentLine : (s.stopOp).currentLine = none := rfl
@[simp] theorem State.stopOp_baselineRegs : (s.stopOp).baselineRegs = s.baselineRegs := rfl
@[simp] theorem State.stopOp_baselineMem : (s.stopOp).baselineMem = s.baselineMem := rfl
@[simp] theorem State.stopOp_stage : (s.stopOp).stage = .writeBack := rfl
@[simp] theorem State.stopOp_reports : (s.stopOp).reports = [] := rfl
@[simp] theorem State.stopOp_reportLog : (s.stopOp).reportLog = s.reportLog := rfl
@[simp] theorem State.stopOp_haltCause : (s.stopOp).haltCause = none := rfl

/-! ## `loadProgram` -/

@[simp] theorem State.loadProgram_config (lines : List (List Char)) : (s.loadProgram lines).config = s.config := rfl
@[simp] theorem State.loadProgram_regs (lines : List (List Char)) : (s.loadProgram lines).regs = s.regs := rfl
@[simp] theorem State.loadProgram_hi (lines : List (List Char)) : (s.loadProgram lines).hi = s.hi := rfl
@[simp] theorem State.loadProgram_pc (lines : List (List Char)) : (s.loadProgram lines).pc = s.pc := rfl
@[simp] theorem State.loadProgram_prog (lines : List (List Char)) : (s.loadProgram lines).prog = lines.map fun l => .text (normalise l) := rfl
@[simp] theorem State.loadProgram_latchF (lines : List (List Char)) : (s.loadProgram lines).latchF = s.latchF := rfl
@[simp] theorem State.loadProgram_latchD (lines : List (List Char)) : (s.loadProgram lines).latchD = s.latchD := rfl
@[simp] theorem State.loadProgram_latchE (lines : List (List Char)) : (s.loadProgram lines).latchE = s.latchE := rfl
@[simp] theorem State.loadProgram_latchM (lines : List (List Char)) : (s.loadProgram lines).latchM = s.latchM := rfl
@[simp] theorem State.loadProgram_mem (lines : List (List Char)) : (s.loadProgram lines).mem = s.mem := rfl
@[simp] theorem State.loadProgram_cycles (lines : List (List Char)) : (s.loadProgram lines).cycles = s.cycles := rfl
@[simp] theorem State.loadProgram_runState (lines : List (List Char)) : (s.loadProgram lines).runState = s.runState := rfl
@[simp] theorem State.loadProgram_currentLine (lines : List (List Char)) : (s.loadProgram lines).currentLine = s.currentLine := rfl
@[simp] theorem State.loadProgram_baselineRegs (lines : List (List Char)) : (s.loadProgram lines).baselineRegs = s.baselineRegs := rfl
@[simp] theorem State.loadProgram_baselineMem (lines : List (List Char)) : (s.loadProgram lines).baselineMem = s.baselineMem := rfl
@[simp] theorem State.loadProgram_stage (lines : List (List Char)) : (s.loadProgram lines).stage = s.stage := rfl
@[simp] theorem State.loadProgram_reports (lines : List (List Char)) : (s.loadProgram lines).reports = [] := rfl
@[simp] theorem State.loadProgram_reportLog (lines : List (List Char)) : (s.loadProgram lines).reportLog = s.reportLog := rfl
@[simp] theorem State.loadProgram_haltCause (lines : List (List Char)) : (s.loadProgram lines).haltCause = s.haltCause := rfl

/-! ## `snapshot()` -/

@[simp] theorem State.snapshot_config : (s.snapshot).config = s.config := rfl
@[simp] theorem State.snapshot_regs : (s.snapshot).regs = s.regs := rfl
@[simp] theorem State.snapshot_hi : (s.snapshot).hi = s.hi := rfl
@[simp] theorem State.snapshot_pc : (s.snapshot).pc = s.pc := rfl
@[simp] theorem State.snapshot_prog : (s.snapshot).prog = s.prog := rfl
@[simp] theorem State.snapshot_latchF : (s.snapshot).latchF = s.latchF := rfl
@[simp] theorem State.snapshot_latchD : (s.snapshot).latchD = s.latchD := rfl
@[simp] theorem State.snapshot_latchE : (s.snapshot).latchE = s.latchE := rfl
@[simp] theorem State.snapshot_latchM : (s.snapshot).latchM = s.latchM := rfl
@[simp] theorem State.snapshot_mem : (s.snapshot).mem = s.mem := rfl
@[simp] theorem State.snapshot_cycles : (s.snapshot).cycles = s.cycles := rfl
@[simp] theorem State.snapshot_runState : (s.snapshot).runState = s.runState := rfl
@[simp] theorem State.snapshot_currentLine : (s.snapshot).currentLine = s.currentLine := rfl
@[simp] theorem State.snapshot_baselineRegs : (s.snapshot).baselineRegs = s.regs := rfl
@[simp] theorem State.snapshot_baselineMem : (s.snapshot).baselineMem = s.mem := rfl
@[simp] theorem State.snapshot_stage : (s.snapshot).stage = s.stage := rfl
@[simp] theorem State.snapshot_reports : (s.snapshot).reports = [] := rfl
@[simp] theorem State.snapshot_reportLog : (s.snapshot).reportLog = s.reportLog := rfl
@[simp] theorem State.snapshot_haltCause : (s.snapshot).haltCause = s.haltCause := rfl

/-! ## `restore()` -/

@[simp] theorem State.restore_config : (s.restore).config = s.config := rfl
@[simp] theorem State.restore_regs : (s.restore).regs = s.baselineRegs.set 0 0 := rfl
@[simp] theorem State.restore_hi : (s.restore).hi = s.hi := rfl
@[simp] theorem State.restore_pc : (s.restore).pc = s.pc := rfl
@[simp] theorem State.restore_prog : (s.restore).prog = s.prog := rfl
@[simp] theorem State.restore_latchF : (s.restore).latchF = s.latchF := rfl
@[simp] theorem State.restore_latchD : (s.restore).latchD = s.latchD := rfl
@[simp] theorem State.restore_latchE : (s.restore).latchE = s.latchE := rfl
@[simp] theorem State.restore_latchM : (s.restore).latchM = s.latchM := rfl
@[simp] theorem State.restore_mem : (s.restore).mem = s.baselineMem := rfl
@[simp] theorem State.restore_cycles : (s.restore).cycles = s.cycles := rfl
@[simp] theorem State.restore_runState : (s.restore).runState = s.runState := rfl
@[simp] theorem State.restore_currentLine : (s.restore).currentLine = s.currentLine := rfl
@[simp] theorem State.restore_baselineRegs : (s.restore).baselineRegs = s.baselineRegs := rfl
@[simp] theorem State.restore_baselineMem : (s.restore).baselineMem = s.baselineMem := rfl
@[simp] theorem State.restore_stage : (s.restore).stage = s.stage := rfl
@[simp] theorem State.restore_reports : (s.restore).reports = [] := rfl
@[simp] theorem State.restore_reportLog : (s.restore).reportLog = s.reportLog := rfl
@[simp] theorem State.restore_haltCause : (s.restore).haltCause = s.haltCause := rfl

/-! ## The write port -/

/-- The write port changes registers and report lists only. -/
theorem State.writeReg_cases (i : Nat) (v : Word) :
    (i = 0 ∧ s.writeReg i v = s) ∨
    (∃ h : i < 32, i ≠ 0 ∧ s.writeReg i v = { s with regs := s.regs.set i v }) ∨
    (32 ≤ i ∧ s.writeReg i v = s.report [.invalidRegisterIndex]) := by
  by_cases h0 : i = 0
  · exact .inl ⟨h0, by simp [State.writeReg, h0]⟩
  · by_cases h : i < 32
    · exact .inr (.inl ⟨h, h0, by simp [State.writeReg, h0, h]⟩)
    · exact .inr (.inr ⟨Nat.le_of_not_lt h, by simp [State.writeReg, h0, h, registerReports]⟩)

@[simp] theorem State.writeReg_config (i : Nat) (v : Word) : (s.writeReg i v).config = s.config := by
  obtain ⟨_, h⟩ | ⟨_, _, h⟩ | ⟨_, h⟩ := s.writeReg_cases i v
  all_goals simp [h]
@[simp] theorem State.writeReg_hi (i : Nat) (v : Word) : (s.writeReg i v).hi = s.hi := by
  obtain ⟨_, h⟩ | ⟨_, _, h⟩ | ⟨_, h⟩ := s.writeReg_cases i v
  all_goals simp [h]
@[simp] theorem State.writeReg_pc (i : Nat) (v : Word) : (s.writeReg i v).pc = s.pc := by
  obtain ⟨_, h⟩ | ⟨_, _, h⟩ | ⟨_, h⟩ := s.writeReg_cases i v
  all_goals simp [h]
@[simp] theorem State.writeReg_prog (i : Nat) (v : Word) : (s.writeReg i v).prog = s.prog := by
  obtain ⟨_, h⟩ | ⟨_, _, h⟩ | ⟨_, h⟩ := s.writeReg_cases i v
  all_goals simp [h]
@[simp] theorem State.writeReg_latchF (i : Nat) (v : Word) : (s.writeReg i v).latchF = s.latchF := by
  obtain ⟨_, h⟩ | ⟨_, _, h⟩ | ⟨_, h⟩ := s.writeReg_cases i v
  all_goals simp [h]
@[simp] theorem State.writeReg_latchD (i : Nat) (v : Word) : (s.writeReg i v).latchD = s.latchD := by
  obtain ⟨_, h⟩ | ⟨_, _, h⟩ | ⟨_, h⟩ := s.writeReg_cases i v
  all_goals simp [h]
@[simp] theorem State.writeReg_latchE (i : Nat) (v : Word) : (s.writeReg i v).latchE = s.latchE := by
  obtain ⟨_, h⟩ | ⟨_, _, h⟩ | ⟨_, h⟩ := s.writeReg_cases i v
  all_goals simp [h]
@[simp] theorem State.writeReg_latchM (i : Nat) (v : Word) : (s.writeReg i v).latchM = s.latchM := by
  obtain ⟨_, h⟩ | ⟨_, _, h⟩ | ⟨_, h⟩ := s.writeReg_cases i v
  all_goals simp [h]
@[simp] theorem State.writeReg_mem (i : Nat) (v : Word) : (s.writeReg i v).mem = s.mem := by
  obtain ⟨_, h⟩ | ⟨_, _, h⟩ | ⟨_, h⟩ := s.writeReg_cases i v
  all_goals simp [h]
@[simp] theorem State.writeReg_cycles (i : Nat) (v : Word) : (s.writeReg i v).cycles = s.cycles := by
  obtain ⟨_, h⟩ | ⟨_, _, h⟩ | ⟨_, h⟩ := s.writeReg_cases i v
  all_goals simp [h]
@[simp] theorem State.writeReg_runState (i : Nat) (v : Word) : (s.writeReg i v).runState = s.runState := by
  obtain ⟨_, h⟩ | ⟨_, _, h⟩ | ⟨_, h⟩ := s.writeReg_cases i v
  all_goals simp [h]
@[simp] theorem State.writeReg_currentLine (i : Nat) (v : Word) : (s.writeReg i v).currentLine = s.currentLine := by
  obtain ⟨_, h⟩ | ⟨_, _, h⟩ | ⟨_, h⟩ := s.writeReg_cases i v
  all_goals simp [h]
@[simp] theorem State.writeReg_baselineRegs (i : Nat) (v : Word) : (s.writeReg i v).baselineRegs = s.baselineRegs := by
  obtain ⟨_, h⟩ | ⟨_, _, h⟩ | ⟨_, h⟩ := s.writeReg_cases i v
  all_goals simp [h]
@[simp] theorem State.writeReg_baselineMem (i : Nat) (v : Word) : (s.writeReg i v).baselineMem = s.baselineMem := by
  obtain ⟨_, h⟩ | ⟨_, _, h⟩ | ⟨_, h⟩ := s.writeReg_cases i v
  all_goals simp [h]
@[simp] theorem State.writeReg_stage (i : Nat) (v : Word) : (s.writeReg i v).stage = s.stage := by
  obtain ⟨_, h⟩ | ⟨_, _, h⟩ | ⟨_, h⟩ := s.writeReg_cases i v
  all_goals simp [h]
@[simp] theorem State.writeReg_haltCause (i : Nat) (v : Word) : (s.writeReg i v).haltCause = s.haltCause := by
  obtain ⟨_, h⟩ | ⟨_, _, h⟩ | ⟨_, h⟩ := s.writeReg_cases i v
  all_goals simp [h]

@[simp] theorem State.writeReg_reports (i : Nat) (v : Word) :
    (s.writeReg i v).reports = s.reports ++ registerReports i := by
  obtain ⟨h0, h⟩ | ⟨hi, _, h⟩ | ⟨hi, h⟩ := s.writeReg_cases i v
  · rw [h]; simp [h0, registerReports]
  · simp [h, hi, registerReports]
  · simp [h, registerReports, Nat.not_lt.mpr hi]

@[simp] theorem State.writeReg_reportLog (i : Nat) (v : Word) :
    (s.writeReg i v).reportLog = s.reportLog ++ registerReports i := by
  obtain ⟨h0, h⟩ | ⟨hi, _, h⟩ | ⟨hi, h⟩ := s.writeReg_cases i v
  · rw [h]; simp [h0, registerReports]
  · simp [h, hi, registerReports]
  · simp [h, registerReports, Nat.not_lt.mpr hi]

/-- What the write port does to the registers (R23). -/
theorem State.writeReg_regs (i : Nat) (v : Word) :
    (s.writeReg i v).regs = if h : i ≠ 0 ∧ i < 32 then s.regs.set i v else s.regs := by
  obtain ⟨h0, h⟩ | ⟨hi, h0, h⟩ | ⟨hi, h⟩ := s.writeReg_cases i v
  · rw [h]; simp [h0]
  · simp [h, hi, h0]
  · simp [h, Nat.not_lt.mpr hi]

/-- Reading another state field set never changes what the read port answers. -/
theorem State.readReg_congr {s t : State} (h : s.regs = t.regs) (i : Nat) : s.readReg i = t.readReg i := by
  simp [State.readReg, h]

@[simp] theorem State.readReg_zero : s.readReg 0 = 0 := by simp [State.readReg]

@[simp] theorem State.report_nil : s.report [] = s := by simp [State.report]

@[simp] theorem State.readReg_report (ks : List Report) (i : Nat) : (s.report ks).readReg i = s.readReg i := rfl

end Sys2Proof.Machine
end

