-- ==== Sys2Proof/Laws/Stages.lean ====
section
/-! SUPPORT. One lemma for each shared operation and for `exec` in each stage, saying once everything it can do; callers
cite them and do not unfold the operations. -/

namespace Sys2Proof.Machine

variable {i : Instr} {s t : State}

/-! ## Sequencing -/

@[simp] theorem Result.andThen_next (s : State) (f : State → Result) :
    Result.andThen (.next s) f = f s := rfl

@[simp] theorem Result.andThen_fault (e : Fault) (f : State → Result) :
    Result.andThen (.fault e) f = .fault e := rfl

@[simp] theorem Result.andThen_refused (e : Refusal) (f : State → Result) :
    Result.andThen (.refused e) f = .refused e := rfl

theorem Result.andThen_eq_next {r : Result} {f : State → Result} :
    Result.andThen r f = .next t ↔ ∃ s, r = .next s ∧ f s = .next t := by
  cases r <;> simp [Result.andThen]

/-! ## The shared parts of the stages -/

/-- IF answers a next state in every state, and changes F, currentLine and pc only (R132). -/
theorem fetchLine_eq (s : State) : ∃ f cl, fetchLine s =
    .next { s with latchF := f, currentLine := cl, pc := s.pc + 1 } ∧
    ((s.lineAtPc = none ∧ f = none ∧ cl = none) ∨
     (∃ l, s.lineAtPc = some l ∧ cl = some s.pc ∧
       f = if l.isBlank then none else some { address := s.pc, raw := l })) := by
  unfold fetchLine
  cases h : s.lineAtPc with
  | none => exact ⟨none, none, rfl, .inl ⟨rfl, rfl, rfl⟩⟩
  | some l => exact ⟨_, some s.pc, rfl, .inr ⟨l, rfl, rfl, rfl⟩⟩

theorem executeResult_some {r : Record} (f : Record → Word) (h : s.latchD = some r) :
    executeResult f s = .next { s with latchE := some { r with result := f r } } := by
  simp [executeResult, h]

theorem executeResult_none (f : Record → Word) (h : s.latchD = none) :
    executeResult f s = .next { s with latchE := none } := by
  simp [executeResult, h]

theorem writeBackResult_eq (s : State) : writeBackResult s = .next (match s.latchM with
    | none => s
    | some r => s.writeReg r.rd r.result) := by
  unfold writeBackResult
  cases s.latchM <;> rfl

/-- DE of a line with an instruction: D empty, a flagged read, or a record with the reports of its reads. -/
theorem decodeWith_cases (i : Instr) (fill : Record → Record) (ks : List Report) (s : State) :
    (s.latchF = none ∧ decodeWith i fill ks s = .next { s with latchD := none }) ∨
    (∃ f, s.latchF = some f ∧ s.config.hazardPolicy = .fault ∧ s.hazard i = true ∧
      decodeWith i fill ks s = .fault .registerHazard) ∨
    (∃ f, s.latchF = some f ∧ ¬ (s.config.hazardPolicy = .fault ∧ s.hazard i = true) ∧
      decodeWith i fill ks s = .next ({ s with latchD := some (fill (f.fresh (.known i))) }.report ks)) := by
  unfold decodeWith
  cases h : s.latchF with
  | none => exact .inl ⟨rfl, rfl⟩
  | some f =>
    by_cases hz : s.config.hazardPolicy = .fault ∧ s.hazard i = true
    · exact .inr (.inl ⟨f, rfl, hz.1, hz.2, if_pos hz⟩)
    · exact .inr (.inr ⟨f, rfl, hz, if_neg hz⟩)

/-! ## `exec` in the stages that are the same for every instruction -/

/-- In the fetch stage every instruction does what IF does. -/
theorem exec_fetch (h : s.stage = .fetch) (i : Instr) : exec i s = fetchLine s := by
  cases i <;>
    simp [exec, execNop, execAdd, execAddi, execSub, execSubi, execMul, execMulu, execDiv, execDivu, execAnd, execAndi,
      execOr, execOri, execXor, execXori, execNor, execSll, execSrl, execMfhi, execLw, execLi, execLui, execSw, execBeq,
      execBne, execSllImm, execSrlImm, inStage, h]

/-- In the write-back stage an instruction of the write-back set writes `result` to `rd`, any other nothing. -/
theorem exec_writeBack (h : s.stage = .writeBack) (i : Instr) :
    exec i s = if i.writesBack = true then writeBackResult s else .next s := by
  cases i <;>
    simp [exec, execNop, execAdd, execAddi, execSub, execSubi, execMul, execMulu, execDiv, execDivu, execAnd, execAndi,
      execOr, execOri, execXor, execXori, execNor, execSll, execSrl, execMfhi, execLw, execLi, execLui, execSw, execBeq,
      execBne, execSllImm, execSrlImm, inStage, h, Instr.writesBack, writeBackNone]

/-- What the memory stage of an instruction is. -/
def memoryPart : Instr → State → Result
  | .nop, s => .next { s with latchM := none }
  | .lw _ _ _, s => memoryLoad s
  | .sw _ _ _, s => memoryStore s
  | _, s => memoryPass s

theorem exec_memory (h : s.stage = .memory) (i : Instr) : exec i s = memoryPart i s := by
  cases i <;>
    simp [exec, execNop, execAdd, execAddi, execSub, execSubi, execMul, execMulu, execDiv, execDivu, execAnd, execAndi,
      execOr, execOri, execXor, execXori, execNor, execSll, execSrl, execMfhi, execLw, execLi, execLui, execSw, execBeq,
      execBne, execSllImm, execSrlImm, inStage, h, memoryPart]

/-- What the execute stage of an instruction is. -/
def executePart : Instr → State → Result
  | .nop, s => .next { s with latchE := none }
  | .add _ _ _, s => executeResult addResult s
  | .addi _ _ _, s => executeResult addiResult s
  | .sub _ _ _, s => executeResult subResult s
  | .subi _ _ _, s => executeResult subiResult s
  | .mul _ _ _, s => executeResult mulResult s
  | .mulu _ _ _, s => executeResult muluResult s
  | .div _ _ _, s => executeDiv s
  | .divu _ _ _, s => executeDivu s
  | .and _ _ _, s => executeResult andResult s
  | .andi _ _ _, s => executeResult andiResult s
  | .or _ _ _, s => executeResult orResult s
  | .ori _ _ _, s => executeResult oriResult s
  | .xor _ _ _, s => executeResult xorResult s
  | .xori _ _ _, s => executeResult xoriResult s
  | .nor _ _ _, s => executeResult norResult s
  | .sll _ _ _, s => executeShift sllResult s
  | .srl _ _ _, s => executeShift srlResult s
  | .mfhi _, s => executeResult (fun _ => s.hi) s
  | .lw _ _ _, s => executePass s
  | .li _ _, s => executeResult liResult s
  | .lui _ _, s => executeResult luiResult s
  | .sw _ _ _, s => executePass s
  | .beq _ _ _, s => executeBranch beqTaken s
  | .bne _ _ _, s => executeBranch bneTaken s
  | .sllImm _ _ _, s => executeShift sllResult s
  | .srlImm _ _ _, s => executeShift srlResult s

theorem exec_execute (h : s.stage = .execute) (i : Instr) : exec i s = executePart i s := by
  cases i <;>
    simp [exec, execNop, execAdd, execAddi, execSub, execSubi, execMul, execMulu, execDiv, execDivu, execAnd, execAndi,
      execOr, execOri, execXor, execXori, execNor, execSll, execSrl, execMfhi, execLw, execLi, execLui, execSw, execBeq,
      execBne, execSllImm, execSrlImm, inStage, h, executePart]

/-- The record the decode stage of an instruction makes of a fetched line (R129 to R131), with register reads in `s`. -/
def decodeFill (i : Instr) (s : State) (r : Record) : Record :=
  match i with
  | .nop => r
  | .add d a b | .sub d a b | .mul d a b | .mulu d a b | .div d a b | .divu d a b
  | .and d a b | .or d a b | .xor d a b | .nor d a b | .sll d a b | .srl d a b =>
    { r with rd := d, branchComparand := s.readReg d, rs := s.readReg a, rt := .value (s.readReg b) }
  | .addi d a imm | .subi d a imm | .andi d a imm | .ori d a imm | .xori d a imm
  | .sllImm d a imm | .srlImm d a imm | .beq d a imm | .bne d a imm =>
    { r with rd := d, branchComparand := s.readReg d, rs := s.readReg a, rt := .value imm.word }
  | .mfhi d => { r with rd := d }
  | .li d imm | .lui d imm => { r with rd := d, rs := imm.word }
  | .lw t off b | .sw t off b =>
    { r with
      rd := t, memoryAddress := s.effectiveAddress b off, rt := .address (s.effectiveAddress b off),
      memoryValue := s.readReg t }

/-- The decode stage of every instruction but NOP is `decodeWith`. -/
theorem exec_decode (h : s.stage = .decode) (hi : i ≠ .nop) :
    exec i s = decodeWith i (decodeFill i s) (decodeReports i) s := by
  cases i <;>
    first
    | exact absurd rfl hi
    | (simp [exec, execAdd, execAddi, execSub, execSubi, execMul, execMulu, execDiv, execDivu, execAnd, execAndi,
        execOr, execOri, execXor, execXori, execNor, execSll, execSrl, execMfhi, execLw, execLi, execLui, execSw, execBeq,
        execBne, execSllImm, execSrlImm, inStage, h, decodeS4, decodeS3M, decodeS3, decodeS2, resolveReports,
        decodeReports, State.resolve]; rfl)

theorem exec_decode_nop (h : s.stage = .decode) : exec .nop s = .next { s with latchD := none } := by
  simp [exec, execNop, inStage, h, decodeNop]

/-! ## What MEM and EX can do -/

/-- MEM answers a next state in every state; it changes M, and data memory for SW only. -/
theorem memoryPart_eq (i : Instr) (s : State) : ∃ m mem' ks,
    memoryPart i s = .next ({ s with latchM := m, mem := mem' }.report ks) ∧
    (mem' = s.mem ∨ ∃ t off b r, i = .sw t off b ∧ s.latchE = some r ∧
      mem' = s.storeWord r.memoryAddress r.memoryValue) ∧
    (∀ r, m = some r → ∃ r', s.latchE = some r' ∧ r = { r' with result := r.result }) := by
  have pass : ∃ m mem' ks, memoryPass s = .next ({ s with latchM := m, mem := mem' }.report ks) ∧
      mem' = s.mem ∧ (∀ r, m = some r → ∃ r', s.latchE = some r' ∧ r = { r' with result := r.result }) :=
    ⟨s.latchE, s.mem, [], by simp [memoryPass], rfl, fun r hr => ⟨r, hr, rfl⟩⟩
  obtain ⟨m0, mem0, ks0, e0, h0, h0'⟩ := pass
  cases i
  case nop => exact ⟨none, s.mem, [], by simp [memoryPart], .inl rfl, by simp⟩
  case lw =>
    simp only [memoryPart, memoryLoad]
    cases hE : s.latchE with
    | none => exact ⟨none, s.mem, [], by simp, .inl rfl, by simp⟩
    | some r => exact ⟨some { r with result := s.readWord r.memoryAddress }, s.mem, _, rfl, .inl rfl, by
        intro r' h; exact ⟨r, rfl, by cases h; rfl⟩⟩
  case sw t off b =>
    simp only [memoryPart, memoryStore]
    cases hE : s.latchE with
    | none => exact ⟨none, s.mem, [], by simp, .inl rfl, by simp⟩
    | some r => exact ⟨some r, _, _, rfl, .inr ⟨t, off, b, r, rfl, rfl, rfl⟩, by
        intro r' h; exact ⟨r', h, rfl⟩⟩
  all_goals exact ⟨m0, mem0, ks0, e0, .inl h0, h0'⟩

/-- EX changes E, HI for DIV only, and the pc for a branch only. -/
theorem executePart_next (h : executePart i s = .next t) : ∃ e hi' pc' ks,
    t = { s with latchE := e, hi := hi', pc := pc' }.report ks ∧
    (hi' = s.hi ∨ ∃ d a b r, i = .div d a b ∧ s.latchD = some r ∧ hi' = divHigh s.config r) ∧
    (pc' = s.pc ∨ ∃ r, i.isBranch = true ∧ s.latchD = some r ∧ pc' = branchPc r) ∧
    (∀ r, e = some r → ∃ r', s.latchD = some r' ∧ r = { r' with result := r.result }) := by
  have res : ∀ f, executeResult f s = .next t → ∃ e, t = { s with latchE := e } ∧
      (∀ r, e = some r → ∃ r', s.latchD = some r' ∧ r = { r' with result := r.result }) := by
    intro f h
    unfold executeResult at h
    cases hD : s.latchD with
    | none => rw [hD] at h; cases h; exact ⟨none, rfl, by simp⟩
    | some r =>
      rw [hD] at h; cases h
      exact ⟨_, rfl, fun r' h => ⟨r, rfl, by cases h; rfl⟩⟩
  have shift : ∀ f, executeShift f s = .next t → ∃ e, t = { s with latchE := e } ∧
      (∀ r, e = some r → ∃ r', s.latchD = some r' ∧ r = { r' with result := r.result }) := by
    intro f h
    unfold executeShift at h
    cases hD : s.latchD with
    | none => rw [hD] at h; cases h; exact ⟨none, rfl, by simp⟩
    | some r =>
      rw [hD] at h
      dsimp only at h
      split at h
      · cases h
      · cases h; exact ⟨_, rfl, fun r' h => ⟨r, rfl, by cases h; rfl⟩⟩
  have pass : executePass s = .next t → ∃ e, t = { s with latchE := e } ∧
      (∀ r, e = some r → ∃ r', s.latchD = some r' ∧ r = { r' with result := r.result }) := by
    intro h; cases h; exact ⟨_, rfl, fun r h => ⟨r, h, rfl⟩⟩
  have plain : (∃ e, t = { s with latchE := e } ∧
      (∀ r, e = some r → ∃ r', s.latchD = some r' ∧ r = { r' with result := r.result })) →
      ∃ e hi' pc' ks, t = { s with latchE := e, hi := hi', pc := pc' }.report ks ∧
        (hi' = s.hi ∨ ∃ d a b r, i = .div d a b ∧ s.latchD = some r ∧ hi' = divHigh s.config r) ∧
        (pc' = s.pc ∨ ∃ r, i.isBranch = true ∧ s.latchD = some r ∧ pc' = branchPc r) ∧
        (∀ r, e = some r → ∃ r', s.latchD = some r' ∧ r = { r' with result := r.result }) := by
    rintro ⟨e, rfl, he⟩
    exact ⟨e, s.hi, s.pc, [], by simp, .inl rfl, .inl rfl, he⟩
  have branch : i.isBranch = true → ∀ c, executeBranch c s = .next t →
      ∃ e hi' pc' ks, t = { s with latchE := e, hi := hi', pc := pc' }.report ks ∧
        (hi' = s.hi ∨ ∃ d a b r, i = .div d a b ∧ s.latchD = some r ∧ hi' = divHigh s.config r) ∧
        (pc' = s.pc ∨ ∃ r, i.isBranch = true ∧ s.latchD = some r ∧ pc' = branchPc r) ∧
        (∀ r, e = some r → ∃ r', s.latchD = some r' ∧ r = { r' with result := r.result }) := by
    intro hb c h
    unfold executeBranch at h
    cases hD : s.latchD with
    | none => rw [hD] at h; cases h; exact ⟨none, s.hi, s.pc, [], by simp, .inl rfl, .inl rfl, by simp⟩
    | some r =>
      rw [hD] at h
      dsimp only at h
      split at h
      · split at h
        · cases h
        · cases h
          exact ⟨some r, s.hi, branchPc r, [], by simp, .inl rfl, .inr ⟨r, hb, rfl, rfl⟩,
            fun r' h => ⟨r', h, rfl⟩⟩
      · cases h
        exact ⟨some r, s.hi, s.pc, [], by simp, .inl rfl, .inl rfl, fun r' h => ⟨r', h, rfl⟩⟩
  cases i
  case nop => cases h; exact plain ⟨none, rfl, by simp⟩
  case div d a b =>
    simp only [executePart, executeDiv] at h
    cases hD : s.latchD with
    | none => rw [hD] at h; cases h; exact ⟨none, s.hi, s.pc, [], by simp, .inl rfl, .inl rfl, by simp⟩
    | some r =>
      rw [hD] at h; cases h
      exact ⟨_, _, s.pc, _, rfl, .inr ⟨d, a, b, r, rfl, rfl, rfl⟩, .inl rfl,
        fun r' h => ⟨r, rfl, by cases h; rfl⟩⟩
  case divu d a b =>
    simp only [executePart, executeDivu] at h
    cases hD : s.latchD with
    | none => rw [hD] at h; cases h; exact ⟨none, s.hi, s.pc, [], by simp, .inl rfl, .inl rfl, by simp⟩
    | some r =>
      rw [hD] at h; cases h
      exact ⟨_, s.hi, s.pc, _, rfl, .inl rfl, .inl rfl, fun r' h => ⟨r, rfl, by cases h; rfl⟩⟩
  case beq => exact branch rfl _ h
  case bne => exact branch rfl _ h
  case lw => exact plain (pass h)
  case sw => exact plain (pass h)
  case sll => exact plain (shift _ h)
  case srl => exact plain (shift _ h)
  case sllImm => exact plain (shift _ h)
  case srlImm => exact plain (shift _ h)
  all_goals exact plain (res _ h)

/-! ## The stages of a cycle -/

/-- The value write-back delivers to registers from latch M, if it holds an instruction of the write-back set. -/
def writeBackState (s : State) : State :=
  match s.latchM with
  | none => s
  | some r =>
    match r.opcode with
    | .known i => if i.writesBack = true then s.writeReg r.rd r.result else s
    | .unknown _ => s

/-- WB answers a next state in every state (R122). -/
theorem evalStage_writeBack (s : State) :
    evalStage .writeBack s = .next (writeBackState { s with stage := .writeBack }) := by
  cases hM : s.latchM with
  | none =>
    simp [evalStage, slotAt, latchSlot, hM, writeBackState, exec, execNop, inStage, writeBackNone]
  | some r =>
    cases hop : r.opcode with
    | known i =>
      have : evalStage .writeBack s = exec i { s with stage := .writeBack } := by
        simp [evalStage, slotAt, latchSlot, hM, hop]
      rw [this, exec_writeBack rfl]
      by_cases hw : i.writesBack = true
      · simp [hw, writeBackResult_eq, writeBackState, hM, hop]
      · simp [hw, writeBackState, hM, hop]
    | unknown m =>
      simp [evalStage, slotAt, latchSlot, hM, hop, writeBackState, passUnknown, inStage, writeBackNone]

/-- The instruction a latch is of, for the stages that `exec` evaluates; an unknown mnemonic has none. -/
def latchInstr (l : Option Record) : Option Instr :=
  match l with
  | none => some .nop
  | some r =>
    match r.opcode with
    | .known i => some i
    | .unknown _ => none

/-- MEM is the memory part of the instruction in E, or passes E on. -/
theorem evalStage_memory (s : State) :
    evalStage .memory s = match latchInstr s.latchE with
      | some i => memoryPart i { s with stage := .memory }
      | none => memoryPass { s with stage := .memory } := by
  cases hE : s.latchE with
  | none => simp [evalStage, slotAt, latchSlot, latchInstr, hE, exec_memory]
  | some r =>
    cases hop : r.opcode with
    | known i => simp [evalStage, slotAt, latchSlot, latchInstr, hE, hop, exec_memory]
    | unknown m => simp [evalStage, slotAt, latchSlot, latchInstr, hE, hop, passUnknown, inStage]

/-- EX is the execute part of the instruction in D, or passes D on. -/
theorem evalStage_execute (s : State) :
    evalStage .execute s = match latchInstr s.latchD with
      | some i => executePart i { s with stage := .execute }
      | none => executePass { s with stage := .execute } := by
  cases hD : s.latchD with
  | none => simp [evalStage, slotAt, latchSlot, latchInstr, hD, exec_execute]
  | some r =>
    cases hop : r.opcode with
    | known i => simp [evalStage, slotAt, latchSlot, latchInstr, hD, hop, exec_execute]
    | unknown m => simp [evalStage, slotAt, latchSlot, latchInstr, hD, hop, passUnknown, inStage]

/-- IF does the same for every line, ill-formed ones too (R132). -/
theorem evalStage_fetch (s : State) : evalStage .fetch s = fetchLine { s with stage := .fetch } := by
  have hx : ∀ i, exec i { s with stage := .fetch } = fetchLine { s with stage := .fetch } :=
    fun i => exec_fetch rfl i
  unfold evalStage
  split
  · exact hx _
  · rfl
  · rfl

/-- DE by what latch F holds. -/
theorem evalStage_decode (s : State) :
    evalStage .decode s = match s.latchF with
      | none => .next { s with stage := .decode, latchD := none }
      | some f =>
        match f.raw.decode with
        | .instr i => exec i { s with stage := .decode }
        | .unknown m => .next { s with stage := .decode, latchD := some (f.fresh (.unknown m)) }
        | .illFormed why => .refused (.illFormedLine why) := by
  cases hF : s.latchF with
  | none => simp [evalStage, slotAt, hF, exec_decode_nop]
  | some f =>
    cases hd : f.raw.decode with
    | instr i => simp [evalStage, slotAt, hF, hd]
    | unknown m => simp [evalStage, slotAt, hF, hd, passUnknown, inStage, decodeUnknown]
    | illFormed why => simp [evalStage, slotAt, hF, hd]

/-- A running core with a false halt test evaluates the five stages and counts the cycle (R120). -/
theorem step_running (h1 : s.runState ≠ .halted) (h2 : s.haltTest = false) :
    step s = evalCycle { s with reports := [] } := by
  simp [step, advanceCycle, h1, h2]

theorem step_halted (h : s.runState = .halted) : step s = .next { s with reports := [] } := by
  simp [step, advanceCycle, h]

theorem step_halting (h1 : s.runState ≠ .halted) (h2 : s.haltTest = true) :
    step s = .next { s.haltTransition with reports := [] } := by
  simp [step, advanceCycle, h1, h2]

/-! ## A pipeline filled with one line -/

theorem afterStage_of_next {k : Stage} (h : evalStage k s = .next t) : afterStage k s = t := by
  simp [afterStage, h, Result.state?]

/-- Filling the pipeline changes the four latches, and `stage`. -/
theorem primePipeline_eq (s : State) : ∃ f d e m, primePipeline s =
    { s with latchF := f, latchD := d, latchE := e, latchM := m, stage := .writeBack } := ⟨_, _, _, _, rfl⟩

@[simp] theorem primePipeline_regs (s : State) : (primePipeline s).regs = s.regs := rfl
@[simp] theorem primePipeline_hi (s : State) : (primePipeline s).hi = s.hi := rfl
@[simp] theorem primePipeline_mem (s : State) : (primePipeline s).mem = s.mem := rfl
@[simp] theorem primePipeline_pc (s : State) : (primePipeline s).pc = s.pc := rfl
@[simp] theorem primePipeline_prog (s : State) : (primePipeline s).prog = s.prog := rfl
@[simp] theorem primePipeline_config (s : State) : (primePipeline s).config = s.config := rfl
@[simp] theorem primePipeline_cycles (s : State) : (primePipeline s).cycles = s.cycles := rfl
@[simp] theorem primePipeline_runState (s : State) : (primePipeline s).runState = s.runState := rfl

/-- The line placed is the one the next fetch reads. -/
theorem lineAtPc_placeImage (s : State) (w : BitVec 32) : (placeImage s w).lineAtPc = some (.image w) := by
  have h : s.fetchIndex < (s.prog ++ List.replicate (s.fetchIndex + 1 - s.prog.length) (Line.text [])).length := by
    simp only [List.length_append, List.length_replicate]; omega
  simp [State.lineAtPc, placeImage, placeLine, List.getElem?_set_self h]

/-! ## Several calls -/

@[simp] theorem advanceCycles_zero (s : State) : advanceCycles 0 s = .next s := rfl

theorem advanceCycles_succ (n : Nat) (s : State) :
    advanceCycles (n + 1) s = Result.andThen (step s) (advanceCycles n) := rfl

theorem advanceCycles_add (m n : Nat) (s : State) :
    advanceCycles (m + n) s = Result.andThen (advanceCycles m s) (advanceCycles n) := by
  induction m generalizing s with
  | zero => rw [Nat.zero_add]; rfl
  | succ m ih =>
    rw [show m + 1 + n = (m + n) + 1 from by omega, advanceCycles_succ, advanceCycles_succ]
    cases step s with
    | next t => exact ih t
    | fault e => rfl
    | refused e => rfl

end Sys2Proof.Machine
end

