-- ==== Sys2Proof/Tests/Slice0.lean ====
section
/-! SUPPORT. Tests of the model on single words, lines, stages and cycles, with results taken from the spec
(95_test_vectors.md unless another file is named), and a witness for the hypotheses of every obligation. -/

namespace Sys2Proof.Tests

open Sys2Proof Sys2Proof.Machine Sys2Proof.Claims

/-! ## Small states -/

/-- A literal without overflow. -/
def lit (v : Imm16) : Lit := ⟨v, false⟩

/-- A record of instruction `i` with resolved operands `rs` and `rt`, as decode leaves it. -/
def recOf (i : Instr) (rs rt : Word) : Record :=
  { address := 0, raw := .text (renderLine i), opcode := .known i, rd := i.token1, rs := rs, rt := .value rt,
    immediate := 0, result := 0, memoryAddress := 0, memoryValue := 0, branchComparand := 0 }

/-- What EX computes for `i` from resolved operands. -/
def exResult (i : Instr) (rs rt : Word) : Option Word :=
  ((Result.state? (exec i { State.reset with stage := .execute, latchD := some (recOf i rs rt) })).bind (·.latchE)).map
    (·.result)

/-- HI and the reports after EX of `i`, HI being DEAD beforehand. -/
def exHigh (i : Instr) (rs rt : Word) : Option (Word × List Report) :=
  (Result.state? (exec i { State.reset with stage := .execute, hi := 0xDEAD, latchD := some (recOf i rs rt) })).map
    fun t => (t.hi, t.reports)

/-- The pc after EX of a branch that compares `a` (token 1) with `b`, the pc being 3 beforehand. -/
def exPc (i : Instr) (a b target : Word) : Option Int :=
  (Result.state? (exec i { State.reset with
    stage := .execute, pc := 3, latchD := some { recOf i b target with branchComparand := a } })).map (·.pc)

/-- Eight bytes 11 22 .. 88, the preset of the load vectors. -/
def bytes8 : Memory := [(0, 0x11), (1, 0x22), (2, 0x33), (3, 0x44), (4, 0x55), (5, 0x66), (6, 0x77), (7, 0x88)]

/-- Result and reports of the MEM stage of an LW at an effective address. -/
def memLoad (a : Int) : Option (Word × List Report) :=
  (Result.state? (exec (.lw 3 (lit 0) 0) { State.reset with
    stage := .memory, mem := bytes8, latchE := some { recOf (.lw 3 (lit 0) 0) 0 0 with memoryAddress := a } })).bind
    fun t => t.latchM.map fun r => (r.result, t.reports)

/-- Memory and reports after the MEM stage of an SW of AABBCCDD at an effective address, memory holding FF in bytes
0 to 7. -/
def memStore (a : Int) : Option (Memory × List Report) :=
  (Result.state? (exec (.sw 1 (lit 0) 0) { State.reset with
    stage := .memory
    mem := [(0, 0xFF), (1, 0xFF), (2, 0xFF), (3, 0xFF), (4, 0xFF), (5, 0xFF), (6, 0xFF), (7, 0xFF)]
    latchE := some { recOf (.sw 1 (lit 0) 0) 0 0 with memoryAddress := a, memoryValue := 0xAABBCCDD } })).map
    fun t => (t.mem, t.reports)

/-- The record and the reports DE makes of a source line, x1 being 7 and x2 being 8. -/
def deLine (line : String) : Option (Record × List Report) :=
  (Result.state? (evalStage .decode { State.reset with
    regs := (State.reset.regs.set 1 7).set 2 8
    latchF := some { address := 0, raw := .text (normalise line.toList) } })).bind
    fun t => t.latchD.map fun r => (r, t.reports)

/-! ## WellFormed refuses each ill-formed term -/

theorem test_wf_refuses_register_32_in_token1 :
    [Instr.add 32 1 2, .addi 32 1 (lit 1), .sub 32 1 2, .subi 32 1 (lit 1), .mul 32 1 2, .mulu 32 1 2, .div 32 1 2,
     .divu 32 1 2, .and 32 1 2, .andi 32 1 (lit 1), .or 32 1 2, .ori 32 1 (lit 1), .xor 32 1 2].all
      (fun i => !i.wf) = true ∧
    [Instr.xori 32 1 (lit 1), .nor 32 1 2, .sll 32 1 2, .srl 32 1 2, .mfhi 32, .lw 32 (lit 1) 1, .li 32 (lit 1),
     .lui 32 (lit 1), .sw 32 (lit 1) 1, .beq 32 1 (lit 1), .bne 32 1 (lit 1), .sllImm 32 1 (lit 1),
     .srlImm 32 1 (lit 1)].all (fun i => !i.wf) = true := by decide

theorem test_wf_refuses_register_32_in_token2 :
    [Instr.add 1 32 2, .addi 1 32 (lit 1), .sub 1 32 2, .subi 1 32 (lit 1), .mul 1 32 2, .mulu 1 32 2, .div 1 32 2,
     .divu 1 32 2, .and 1 32 2, .andi 1 32 (lit 1), .or 1 32 2, .ori 1 32 (lit 1), .xor 1 32 2].all
      (fun i => !i.wf) = true ∧
    [Instr.xori 1 32 (lit 1), .nor 1 32 2, .sll 1 32 2, .srl 1 32 2, .lw 1 (lit 1) 32, .sw 1 (lit 1) 32,
     .beq 1 32 (lit 1), .bne 1 32 (lit 1), .sllImm 1 32 (lit 1), .srlImm 1 32 (lit 1)].all
      (fun i => !i.wf) = true := by decide

theorem test_wf_refuses_register_32_in_token3 :
    [Instr.add 1 2 32, .sub 1 2 32, .mul 1 2 32, .mulu 1 2 32, .div 1 2 32, .divu 1 2 32, .and 1 2 32, .or 1 2 32,
     .xor 1 2 32, .nor 1 2 32, .sll 1 2 32, .srl 1 2 32].all (fun i => !i.wf) = true := by decide

theorem test_wf_refuses_overflow_literal :
    [Instr.addi 1 2 ⟨1, true⟩, .subi 1 2 ⟨1, true⟩, .andi 1 2 ⟨1, true⟩, .ori 1 2 ⟨1, true⟩, .xori 1 2 ⟨1, true⟩,
     .lw 1 ⟨1, true⟩ 2, .li 1 ⟨1, true⟩, .lui 1 ⟨1, true⟩, .sw 1 ⟨1, true⟩ 2, .beq 1 2 ⟨1, true⟩, .bne 1 2 ⟨1, true⟩,
     .sllImm 1 2 ⟨1, true⟩, .srlImm 1 2 ⟨1, true⟩].all (fun i => !i.wf) = true := by decide

theorem test_wf_accepts_the_bounds :
    [Instr.nop, .add 31 31 31, .addi 31 31 (lit 0xFFFF), .mfhi 31, .lw 31 (lit 0xFFFF) 31, .li 31 (lit 0xFFFF),
     .sw 31 (lit 0xFFFF) 31, .beq 31 31 (lit 0xFFFF), .sllImm 31 31 (lit 0xFFFF)].all Instr.wf = true := by decide

/-! ## Words of the spec, one for every constructor -/

/-- The decoder reads `i` from `w`, and the encoder writes `w`. -/
def wordIs (w : BitVec 32) (i : Instr) : Bool := decodeImage w == .instr i && encode i == w

theorem test_word_arithmetic :
    wordIs 0x04611000 (.add 3 1 2) = true ∧ wordIs 0x0861FFFF (.addi 3 1 (lit 0xFFFF)) = true ∧
    wordIs 0x0C611000 (.sub 3 1 2) = true ∧ wordIs 0x10618000 (.subi 3 1 (lit 0x8000)) = true ∧
    wordIs 0x14611000 (.mul 3 1 2) = true ∧ wordIs 0x18611000 (.mulu 3 1 2) = true ∧
    wordIs 0x1CA20800 (.div 5 2 1) = true ∧ wordIs 0x20E11000 (.divu 7 1 2) = true ∧
    wordIs 0x48C00000 (.mfhi 6) = true := by decide

theorem test_word_logic_shift :
    wordIs 0x24611000 (.and 3 1 2) = true ∧ wordIs 0x2841FF00 (.andi 2 1 (lit 0xFF00)) = true ∧
    wordIs 0x2C611000 (.or 3 1 2) = true ∧ wordIs 0x3041CCDD (.ori 2 1 (lit 0xCCDD)) = true ∧
    wordIs 0x34611000 (.xor 3 1 2) = true ∧ wordIs 0x3841FFFF (.xori 2 1 (lit 0xFFFF)) = true ∧
    wordIs 0x3C611000 (.nor 3 1 2) = true ∧ wordIs 0x40411800 (.sll 2 1 3) = true ∧
    wordIs 0x44411800 (.srl 2 1 3) = true ∧ wordIs 0x6441001F (.sllImm 2 1 (lit 0x1F)) = true ∧
    wordIs 0x68410008 (.srlImm 2 1 (lit 8)) = true := by decide

theorem test_word_immediate_memory_branch :
    wordIs 0 .nop = true ∧ wordIs 0x50208000 (.li 1 (lit 0x8000)) = true ∧
    wordIs 0x5420AABB (.lui 1 (lit 0xAABB)) = true ∧ wordIs 0x4C61FFFC (.lw 3 (lit 0xFFFC) 1) = true ∧
    wordIs 0x58220003 (.sw 1 (lit 3) 2) = true ∧ wordIs 0x5C220000 (.beq 1 2 (lit 0)) = true ∧
    wordIs 0x60200005 (.bne 1 0 (lit 5)) = true := by decide

/-- R98: reserved bits that are not 0, and `op` numbers above 26, match no row. -/
theorem test_word_unknown :
    [0x00000001#32, 0x04611001#32, 0x14611400#32, 0x48800001#32, 0x48810000#32, 0x50210004#32, 0x5421AABB#32,
     0x6C000000#32, 0xFFFFFFFF#32].all (fun w => decodeImage w == .unknown []) = true := by decide

/-- The host's numbering of a table word is the word's. -/
theorem test_decodeTableWord :
    decodeTableWord 32 0x0861FFFF = some (.addi 3 1 (lit 0xFFFF)) ∧ decodeTableWord 32 0 = some .nop ∧
    decodeTableWord 32 0x6C000000 = none := by decide

/-! ## Source lines -/

/-- The reading of a source line. -/
def lineOf (line : String) : Decoded := decodeText (normalise line.toList)

/-- R80, R83, R86, R99 and the lines of 95_test_vectors.md. -/
theorem test_line_forms :
    lineOf "  add $1 ,\t$02,,$3 # comment" = .instr (.add 1 2 3) ∧ lineOf "LI $1, 12345" = .instr (.li 1 ⟨0x1234, true⟩) ∧
    lineOf "LI $1, 00012" = .instr (.li 1 ⟨1, true⟩) ∧ lineOf "lw $33, 0($34)" = .instr (.lw 33 (lit 0) 34) ∧
    lineOf "SLL $2, $1, 1F" = .instr (.sllImm 2 1 (lit 0x1F)) ∧ lineOf "SLL $2, $1, $3" = .instr (.sll 2 1 3) ∧
    lineOf "  # only a comment" = .instr .nop ∧ lineOf "" = .instr .nop := by decide

theorem test_line_families :
    lineOf "SRL $2, $1, $3" = .instr (.srl 2 1 3) ∧ lineOf "BEQ $1, $2, FFFE" = .instr (.beq 1 2 (lit 0xFFFE)) ∧
    lineOf "BNE $1, $0, 5" = .instr (.bne 1 0 (lit 5)) ∧ lineOf "MFHI $4" = .instr (.mfhi 4) ∧
    lineOf "SW $1, 1FFD($0)" = .instr (.sw 1 (lit 0x1FFD) 0) ∧ lineOf "LUI $1, AABB" = .instr (.lui 1 (lit 0xAABB)) ∧
    lineOf "DIVU $7, $1, $2" = .instr (.divu 7 1 2) ∧ lineOf "NOR $3, $0, $0" = .instr (.nor 3 0 0) := by decide

/-- R93, D29: unknown mnemonics, `NOP` as text among them. -/
theorem test_line_unknown :
    lineOf "NOP" = .unknown "NOP".toList ∧ lineOf "nori $1, $2, FF" = .unknown "NORI".toList ∧
    lineOf "FOO" = .unknown "FOO".toList := by decide

/-- R94 to R96: refused lines. -/
theorem test_line_refused :
    lineOf "ADD $1, $2" = .illFormed .wrongShape ∧ lineOf "ADD 1, $2, $3" = .illFormed .wrongOperandKind ∧
    lineOf "ADDI $1, $2, $3" = .illFormed .wrongOperandKind ∧ lineOf "LI $1, -5" = .illFormed .malformedToken ∧
    lineOf "LW $1, 4 ($2)" = .illFormed .malformedToken ∧ lineOf "ADD" = .illFormed .wrongShape := by decide

/-- The text encoder and the decoder on one line of each shape. -/
theorem test_renderLine :
    renderLine (.addi 1 0 (lit 5)) = "ADDI $1, $0, 0005".toList ∧
    renderLine (.lw 33 ⟨0x1FFD, false⟩ 4) = "LW $33, 1FFD($4)".toList ∧
    decodeText (renderLine (.li 120 ⟨0xABC, true⟩)) = .instr (.li 120 ⟨0xABC, true⟩) := by decide

/-! ## Results of the execute stage (section 2.1 to 2.3) -/

theorem test_add : exResult (.add 3 1 2) 0x7FFFFFFF 1 = some 0x80000000 ∧
    exResult (.add 3 1 2) 0xFFFFFFFF 1 = some 0 := by decide

theorem test_addi : exResult (.addi 3 1 (lit 0xFFFF)) 0 0xFFFF = some 0xFFFFFFFF ∧
    exResult (.addi 3 1 (lit 0x7FFF)) 0xFFFFFFFF 0x7FFF = some 0x7FFE := by decide

theorem test_sub : exResult (.sub 3 1 2) 0 1 = some 0xFFFFFFFF ∧
    exResult (.sub 3 1 2) 0x80000000 1 = some 0x7FFFFFFF := by decide

theorem test_subi : exResult (.subi 3 1 (lit 0xFFFF)) 5 0xFFFF = some 6 ∧
    exResult (.subi 3 1 (lit 0x8000)) 0 0x8000 = some 0x8000 := by decide

theorem test_mul : exResult (.mul 3 1 2) 0xFFFFFFFE 3 = some 0xFFFFFFFA ∧
    exResult (.mul 3 1 2) 0x12345678 0x9ABCDEF0 = some 0x242D2080 := by decide

theorem test_mul_leaves_high : exHigh (.mul 3 1 2) 0xFFFFFFFF 0xFFFFFFFF = some (0xDEAD, []) := by decide

theorem test_mulu : exResult (.mulu 3 1 2) 0xFFFFFFFF 2 = some 0xFFFFFFFE ∧
    exHigh (.mulu 3 1 2) 0xFFFFFFFF 2 = some (0xDEAD, []) := by decide

theorem test_div_quotient : exResult (.div 3 1 2) 7 0xFFFFFFFE = some 0xFFFFFFFC ∧
    exResult (.div 3 1 2) 0x80000000 0xFFFFFFFF = some 0x80000000 ∧ exResult (.div 3 1 2) 5 0 = some 0 := by decide

theorem test_div_high : exHigh (.div 3 1 2) 0xFFFFFFF9 2 = some (1, []) ∧
    exHigh (.div 3 1 2) 7 0xFFFFFFFE = some (0xFFFFFFFF, []) ∧
    exHigh (.div 3 1 2) 0xFFFFFFF9 0xFFFFFFFE = some (0xFFFFFFFF, []) ∧
    exHigh (.div 3 1 2) 5 0 = some (0, [.divisionByZero]) := by decide

theorem test_divu : exResult (.divu 3 1 2) 0xFFFFFFF9 2 = some 0x7FFFFFFC ∧
    exHigh (.divu 3 1 2) 5 0 = some (0xDEAD, [.divisionByZero]) := by decide

theorem test_mfhi : ((Result.state? (exec (.mfhi 4) { State.reset with
    stage := .execute, hi := 0x1234, latchD := some (recOf (.mfhi 4) 0 0) })).bind (·.latchE)).map (·.result) =
    some 0x1234 := by decide

theorem test_and_or : exResult (.and 3 1 2) 0xFF00FF00 0x0FF00FF0 = some 0x0F000F00 ∧
    exResult (.or 3 1 2) 0xFF00FF00 0x0FF00FF0 = some 0xFFF0FFF0 := by decide

theorem test_xor_nor : exResult (.xor 3 1 2) 0xFF00FF00 0x0FF00FF0 = some 0xF0F0F0F0 ∧
    exResult (.nor 3 1 2) 0xFF00FF00 0x0FF00FF0 = some 0x000F000F := by decide

theorem test_logic_literals : exResult (.andi 2 1 (lit 0xFF00)) 0xAABBCCDD 0xFF00 = some 0xCC00 ∧
    exResult (.ori 2 0 (lit 0x8000)) 0 0x8000 = some 0x8000 ∧
    exResult (.xori 2 1 (lit 0xFFFF)) 0xAABBCCDD 0xFFFF = some 0xAABB3322 := by decide

theorem test_sll : exResult (.sllImm 2 1 (lit 1)) 0x80000001 1 = some 2 ∧
    exResult (.sllImm 2 1 (lit 0x20)) 0x1234 0x20 = some 0x1234 ∧ exResult (.sll 2 1 3) 1 0x21 = some 2 := by decide

theorem test_srl : exResult (.srlImm 2 1 (lit 0x1F)) 0x80000000 0x1F = some 1 ∧
    exResult (.srl 2 1 3) 0x80000000 0x24 = some 0x08000000 := by decide

theorem test_li_lui : exResult (.li 1 (lit 0x8000)) 0x8000 0 = some 0xFFFF8000 ∧
    exResult (.li 1 (lit 0x7FFF)) 0x7FFF 0 = some 0x7FFF ∧ exResult (.lui 1 (lit 0xAABB)) 0xAABB 0 = some 0xAABB0000 := by
  decide

/-! ## Loads, stores, branches (section 2.4, 2.5; 43_branch.md R204) -/

theorem test_lw_values : memLoad 0 = some (0x44332211, []) ∧ memLoad 1 = some (0x55443322, []) ∧
    memLoad 3 = some (0x77665544, []) := by decide

theorem test_lw_bounds : memLoad 8188 = some (0, []) ∧ memLoad 8189 = some (0, [.unalignedOversizeAccess]) ∧
    memLoad 8192 = some (0, [.memoryOutOfBounds]) ∧ memLoad (-1) = some (0, [.memoryOutOfBounds]) ∧
    memLoad (2 ^ 32 + 4) = some (0, [.memoryOutOfBounds]) := by decide

theorem test_sw_unaligned : memStore 1 =
    some ([(0, 0xFF), (1, 0xDD), (2, 0xCC), (3, 0xBB), (4, 0xAA), (5, 0xFF), (6, 0xFF), (7, 0xFF)], []) := by decide

theorem test_sw_bounds : (memStore 8189).map (·.2) = some [.unalignedOversizeAccess] ∧
    (memStore 8192).map (fun p => (p.1.length, p.2)) = some (8, [.memoryOutOfBounds]) := by decide

/-- Storing the reset value removes the entry: the list stays canonical. -/
theorem test_memory_canonical : Memory.setWord bytes8 2 0x00AA0000 =
    [(0, 0x11), (1, 0x22), (4, 0xAA), (6, 0x77), (7, 0x88)] := by decide

theorem test_beq : exPc (.beq 1 0 (lit 5)) 0 0 5 = some 4 ∧ exPc (.beq 1 0 (lit 5)) 1 0 5 = some 3 ∧
    exPc (.beq 1 2 (lit 0xFFFE)) 6 6 0xFFFE = some (-3) := by decide

theorem test_bne : exPc (.bne 1 0 (lit 5)) 1 0 5 = some 4 ∧ exPc (.bne 1 1 (lit 5)) 1 1 5 = some 3 ∧
    exPc (.bne 1 1 (lit 0)) 1 2 0 = some (-1) := by decide

/-! ## Decode and write-back -/

theorem test_decode_s4 : (deLine "ADDI $1, $2, 12345").map
    (fun p => (p.1.rd, p.1.branchComparand, p.1.rs, p.1.rt, p.2)) =
    some (1, 7, 8, .value 0x1234, [.immediateOverflow]) := by decide

theorem test_decode_s3m : (deLine "SW $1, FFFC($2)").map
    (fun p => (p.1.rd, p.1.memoryAddress, p.1.memoryValue, p.2)) = some (1, 4, 7, []) := by decide

/-- Section 2.7: three register indices of 32 or more. -/
theorem test_decode_register_reports :
    (deLine "ADD $40, $1, $2").map (·.2) = some [.invalidRegisterIndex] ∧
    (deLine "ADD $3, $32, $2").map (fun p => (p.1.rs, p.1.rt, p.2)) = some (0, .value 8, [.invalidRegisterIndex]) ∧
    (deLine "LW $33, 0($34)").map (·.2) = some [.invalidRegisterIndex, .invalidRegisterIndex] := by decide

/-- The registers and reports after WB of a record with destination `d` and result 5. -/
def wbAt (d : Nat) : Option (List Nat × List Report) :=
  (Result.state? (exec (.add d 1 2) { State.reset with
    stage := .writeBack, latchM := some { recOf (.add d 1 2) 0 0 with result := 5 } })).map
    fun t => (([0, 1, 31].map fun k => (t.readReg k).toNat), t.reports)

theorem test_write_back : wbAt 0 = some ([0, 0, 0], []) ∧ wbAt 31 = some ([0, 0, 5], []) ∧
    wbAt 32 = some ([0, 0, 0], [.invalidRegisterIndex]) := by decide

theorem test_write_back_of_sw_is_nothing : (Result.state? (exec (.sw 1 (lit 0) 0) { State.reset with
    stage := .writeBack, latchM := some { recOf (.sw 1 (lit 0) 0) 0 0 with result := 5 } })).map
    (fun t => (t.readReg 1).toNat) = some 0 := by decide

/-! ## Cycles -/

/-- A state after `loadProgram` of source lines. -/
def loaded (lines : List String) : State := State.reset.loadProgram (lines.map String.toList)

/-- The first call on the empty program halts (section 2.3), drained. -/
theorem test_empty_program_halts :
    (Result.state? (step State.reset)).map (fun t => (t.runState, t.haltCause, t.cycles)) = some (.halted, some .drained, 0) := by
  decide

/-- The first cycle fetches line 0 (trace of P1, cycle 1). -/
theorem test_first_cycle : (Result.state? (step (loaded ["ADDI $1, $0, 5"]))).map
    (fun t => (t.latchF.map (·.address), t.latchD, t.pc, t.cycles, t.currentLine)) =
    some (some 0, none, 1, 1, some 0) := by decide

/-- An `advanceCycle` at the ceiling halts and says so (R134, P6). -/
theorem test_ceiling_halts : (Result.state? (step { loaded ["BEQ $0, $0, 1"] with cycles := 2000000 })).map
    (fun t => (t.runState, t.haltCause, t.pc, t.cycles)) = some (.halted, some .ceiling, 0, 0) := by decide

/-- A word placed by `withFetchWord` is fetched by the next cycle, and decodes to its instruction. -/
theorem test_withFetchWord : (Result.state? (step (State.reset.withFetchWord 32 0x04611000))).bind (fun t =>
    t.latchF.map fun f => (f.address, f.raw.decode)) = some (0, .instr (.add 3 1 2)) := by decide

/-- The same step has the instruction's effect (sections 2.3, 2.5, 2.1): LI writes x1, a taken BEQ to 64 leaves the pc one
past line 63, DIVU by 0 reports. -/
theorem test_withFetchWord_effect :
    (Result.state? (step (State.reset.withFetchWord 32 0x50208000))).map (·.readReg 1) = some 0xFFFF8000 ∧
    (Result.state? (step (State.reset.withFetchWord 32 0x5C000064))).map (·.pc) = some 0x64 ∧
    (Result.state? (step (State.reset.withFetchWord 32 0x20611000))).map (·.reports) = some [.divisionByZero] := by decide

/-- The cycle of a taken branch (P5, cycle 4): the delay slot goes on to D, line 4 is fetched. -/
def branchState : State :=
  { loaded ["ADDI $1, $0, 0", "BEQ $1, $0, 5", "LI $7, 1", "ADDI $2, $0, 99", "ADDI $3, $0, 1"] with
    pc := 3, cycles := 3
    latchF := some { address := 2, raw := .text "LI $7, 1".toList }
    latchD := some { recOf (.beq 1 0 (lit 5)) 0 5 with address := 1 } }

theorem test_taken_branch_cycle : (Result.state? (step branchState)).map (fun t =>
    (t.latchD.map (·.address), t.latchF.map (·.address), t.pc, t.currentLine)) =
    some (some 2, some 4, 5, some 4) := by decide

/-- Section 2.6: write-back is seen by the decode of the same cycle. -/
theorem test_same_cycle_write_back : (Result.state? (step { loaded ["ADD $2, $1, $1"] with
    pc := 1, cycles := 4
    latchF := some { address := 0, raw := .text "ADD $2, $1, $1".toList }
    latchM := some { recOf (.li 1 (lit 7)) 7 0 with result := 7 } })).bind (fun t =>
    t.latchD.map fun r => (r.rs, r.rt)) = some (7, .value 7) := by decide

/-- R94: a refused line stops the cycle that decodes it. -/
theorem test_ill_formed_refused : (match step { loaded ["ADD $1, $2"] with
      pc := 1, cycles := 1, latchF := some { address := 0, raw := .text "ADD $1, $2".toList } } with
    | .refused e => e == .illFormedLine .wrongShape
    | _ => false) = true := by decide

/-- R263, R261: `stepOnce` leaves an idle core idle and returns the fetched line; a halting call returns none. -/
theorem test_stepOnce : (Result.state? (stepOnce (loaded ["LI $1, 1"]))).map State.cycleReturn =
      some { line := some 0, runState := .idle, reports := [] } ∧
    (Result.state? (stepOnce State.reset)).map State.cycleReturn =
      some { line := none, runState := .halted, reports := [] } := by decide

/-- Section 2.7, the host operations. -/
theorem test_host_operations :
    (State.reset.hostReadRegister 32).2.reports = [.invalidRegisterIndex] ∧
    (State.reset.hostWriteRegister 32 5).reports = [.invalidRegisterIndex] ∧
    (State.reset.hostReadWord 8190).2.reports = [.unalignedOversizeAccess] ∧
    (State.reset.hostWriteWord (-4) 1).reports = [.memoryOutOfBounds] := by decide

/-- S1, S2: `writeWord(1, 0xAABBCCDD)` and the two straddling writes. -/
theorem test_host_words :
    (State.reset.hostWriteWord 0 0x1AABBCCDD).readWord 0 = 0xAABBCCDD ∧
    (State.reset.hostWriteWord 1 0xAABBCCDD).mem = [(1, 0xDD), (2, 0xCC), (3, 0xBB), (4, 0xAA)] ∧
    ((State.reset.hostWriteWord 3 0x332211FF).hostWriteWord 7 0x44).readWord 4 = 0x44332211 := by decide

/-! ## Witnesses: for every obligation with hypotheses, concrete inputs that meet them, each clause at a bound -/

/-- A call answers a next state. -/
def goesOn (r : Result) : Bool := (Result.state? r).isSome

theorem goesOn_iff (r : Result) : goesOn r = true ↔ ∃ t, r = .next t := by
  cases r <;> simp [goesOn, Result.state?]

/-- A core in the middle of a program, all latches filled. -/
def busy : State :=
  { loaded ["ADD $2, $1, $1", "SW $2, 0($0)", "BEQ $1, $2, 3", "LI $5, 1", "FOO"] with
    pc := 4, cycles := 4, currentLine := some 3, runState := .running
    latchF := some { address := 3, raw := .text "LI $5, 1".toList }
    latchD := some { recOf (.beq 1 2 (lit 3)) 0 3 with address := 2, raw := .text "BEQ $1, $2, 3".toList }
    latchE := some { recOf (.sw 2 (lit 0) 0) 0 0 with address := 1, raw := .text "SW $2, 0($0)".toList }
    latchM := some { recOf (.add 2 1 1) 0 0 with raw := .text "ADD $2, $1, $1".toList } }

theorem witness_ImageDecodesWhatEncodeWrites : (Instr.add 31 0 31).wf = true ∧ (Instr.lw 0 (lit 0xFFFF) 31).wf = true := by
  decide

theorem witness_EncodeWritesWhatImageDecodes :
    decodeImage 0x6BFFFFFF = .instr (.srlImm 31 31 (lit 0xFFFF)) ∧ decodeImage 0 = .instr .nop := by decide

theorem witness_ImageRowsDecideDecoding :
    (∃ row ∈ imageRows, 0x6BFFFFFF#32 &&& row.2 = row.1) ∧ (∀ row ∈ imageRows, 0x6C000000#32 &&& row.2 ≠ row.1) := by
  have h1 : imageRows.any (fun row => 0x6BFFFFFF#32 &&& row.2 == row.1) = true := by decide
  have h2 : imageRows.all (fun row => 0x6C000000#32 &&& row.2 != row.1) = true := by decide
  exact ⟨by simpa using List.any_eq_true.mp h1, fun row hr => by simpa using List.all_eq_true.mp h2 row hr⟩

/-- An unknown mnemonic; a canonical form; a malformed token; the shape of LW on ADD; a literal for a register. -/
theorem witness_UnknownAndRefusedLines :
    mnemonicOf "FOO".toList = none ∧
    (let kinds (ops : List String) := (ops.map fun t => classify t.toList).map kindOf
     kinds ["$1", "$2", "5"] ∈ canonicalKinds .sll ∧
     (kinds ["$1", "$2", "-5"] ∉ canonicalKinds .add ∧ Kind.malformed ∈ kinds ["$1", "$2", "-5"]) ∧
     (kinds ["$1", "4($2)"] ∉ canonicalKinds .add ∧ Kind.malformed ∉ kinds ["$1", "4($2)"] ∧
       shapeOf (["$1", "4($2)"].map fun t => classify t.toList) ≠ some Mnemonic.add.shape) ∧
     (kinds ["$1", "$2", "5"] ∉ canonicalKinds .add ∧ Kind.malformed ∉ kinds ["$1", "$2", "5"] ∧
       shapeOf (["$1", "$2", "5"].map fun t => classify t.toList) = some Mnemonic.add.shape)) := by decide

theorem witness_LiteralKeepsFirstFourDigits :
    "12AF".toList ≠ [] ∧ "12AF".toList.all isHexDigit = true ∧ "12AF0".toList.all isHexDigit = true ∧
    "12G".toList.all isHexDigit = false := by decide

theorem inv_reset : Inv State.reset where
  config_wf := by decide
  reg_zero := by decide
  mem_wf := by decide
  baseline_wf := by decide
  stage_start := rfl
  cycles_le := by decide
  pc_low := by decide
  pc_high := by decide
  current_line := by intro a h; cases h
  halted_clean := by intro h; cases h
  halt_cause := by decide
  fetched_not_blank := by intro f h; cases h
  recordD := by intro r h; cases h
  recordE := by intro r h; cases h
  recordM := by intro r h; cases h

theorem inv_busy : Inv busy where
  config_wf := by decide
  reg_zero := by decide
  mem_wf := by decide
  baseline_wf := by decide
  stage_start := rfl
  cycles_le := by decide
  pc_low := by decide
  pc_high := by decide
  current_line := by intro a h; cases h; decide
  halted_clean := by intro h; cases h
  halt_cause := by decide
  fetched_not_blank := by intro f h; cases h; decide
  recordD := by intro r h; cases h; exact ⟨⟨by decide, by decide, by decide⟩, by decide, by decide⟩
  recordE := by intro r h; cases h; exact ⟨⟨by decide, by decide, by decide⟩, by decide, by decide⟩
  recordM := by intro r h; cases h; exact ⟨⟨by decide, by decide, by decide⟩, by decide, by decide⟩

theorem busy_evaluates : Evaluates busy := ⟨by decide, by decide⟩

theorem busy_steps : ∃ t, step busy = .next t := (goesOn_iff _).mp (by decide)

theorem witness_StepKeepsInvariant : ∃ s t, Inv s ∧ step s = .next t :=
  busy_steps.elim fun t h => ⟨busy, t, inv_busy, h⟩

theorem witness_HostOperationsKeepInvariant : Inv busy ∧ (∃ t, stepOnce busy = .next t) ∧ ∃ t, runFor 1 busy = .next t :=
  ⟨inv_busy, (goesOn_iff _).mp (by decide), (goesOn_iff _).mp (by decide)⟩

theorem witness_CycleRunsTheDecodedInstructions : Evaluates busy := busy_evaluates

/-- White space, a body, white space and a comment; and an empty body. -/
theorem witness_NormalisedLineIsFixed :
    (∀ c ∈ " \t".toList, isSpace c = true) ∧ '#' ∉ "li $1, ab".toList ∧
    (∀ c, "li $1, ab".toList.head? = some c ∨ "li $1, ab".toList.getLast? = some c → isSpace c = false) ∧
    normalise " \tli $1, ab # c".toList = "LI $1, AB".toList ∧
    ([] : List Char).head? = none ∧ normalise " \t# c".toList = [] := by
  have w : " \t".toList.all isSpace = true := by decide
  refine ⟨List.all_eq_true.mp w, by decide, ?_, by decide, by decide, by decide⟩
  rintro c (h | h)
  · have e : "li $1, ab".toList.head? = some 'l' := by decide
    obtain rfl : 'l' = c := Option.some.inj (e.symm.trans h)
    decide
  · have e : "li $1, ab".toList.getLast? = some 'b' := by decide
    obtain rfl : 'b' = c := Option.some.inj (e.symm.trans h)
    decide

theorem witness_PlacedWordRunsAtTheNextStep :
    decodeImage 0x5C000064 = .instr (.beq 0 0 (lit 0x64)) ∧ busy.config.defaultPolicies = true ∧
    0 < busy.config.ceiling ∧ goesOn (step (busy.withFetchWord 32 0x5C000064)) = true := by decide

/-- Fetch of a line, at the last line, one past it, and below 0. -/
theorem witness_FetchStage :
    ({ busy with stage := .fetch } : State).prog[({ busy with stage := .fetch } : State).pc.toNat]? =
      some (Line.text "FOO".toList) ∧
    ((busy.prog.length : Int) ≤ ({ busy with stage := .fetch, pc := 5 } : State).pc) ∧
    ({ busy with stage := .fetch, pc := -1 } : State).pc < 0 := by decide

theorem witness_HaltTransitionAndItsTest :
    (busy.runState ≠ .halted ∧ ¬ (busy.config.ceiling ≤ busy.cycles ∨
      ((busy.prog.length : Int) ≤ busy.pc ∧ busy.latchesEmpty = true))) ∧
    (∃ t, step busy = .next t) ∧
    (let s : State := { busy with cycles := 2000000 }
     s.runState ≠ .halted ∧ s.config.ceiling ≤ s.cycles ∧ ¬ ((s.prog.length : Int) ≤ s.pc ∧ s.latchesEmpty = true)) ∧
    ((State.reset.prog.length : Int) ≤ State.reset.pc ∧ State.reset.latchesEmpty = true ∧
      State.reset.runState ≠ .halted) :=
  ⟨by decide, busy_steps, by decide, by decide⟩

theorem witness_HaltedIsTerminal : ∃ s : State, s.runState = .halted := ⟨State.reset.haltTransition, rfl⟩

theorem witness_CeilingBoundsEveryRun :
    ∃ (n : Nat) (s t : State), s.config.ceiling < n ∧ advanceCycles n s = .next t :=
  ((goesOn_iff (advanceCycles 2 { busy with config := { Config.reference with ceiling := 1 }, cycles := 0 })).mp
    (by decide)).elim fun t h => ⟨2, _, t, by decide, h⟩

theorem witness_DefaultPoliciesNeverStop : busy.config.defaultPolicies = true ∧ busy.programWellFormed = true := by
  decide

/-- A core about to decode a refused line. -/
def badLine : State :=
  { busy with latchF := some { address := 3, raw := .text "ADD $1, $2".toList } }

theorem witness_IllFormedLineIsRefused : Evaluates badLine ∧ badLine.config.defaultPolicies = true ∧
    (∃ f why, badLine.latchF = some f ∧ f.raw.decode = .illFormed why) :=
  ⟨⟨by decide, by decide⟩, by decide, _, .wrongShape, rfl, by decide⟩

/-- Both policies at `fault`; both constructs present, then both absent. -/
theorem witness_PoliciesFlagExactlyTheirConstruct :
    (let s : State := { busy with
        stage := .decode, config := { Config.reference with hazardPolicy := .fault }
        latchE := some (recOf (.li 31 (lit 1)) 1 0) };
      (exec (.add 3 31 1) s = .fault .registerHazard ∧ goesOn (exec (.add 31 3 1) s) = true)) ∧
    (let s : State := { busy with stage := .execute, config := { Config.reference with branchPolicy := .fault } };
      (exec (.beq 1 2 (lit 3)) s = .fault .delaySlotNotBlank ∧ goesOn (exec (.bne 1 2 (lit 3)) s) = true ∧
        goesOn (exec (.beq 1 2 (lit 3)) { s with latchF := none }) = true)) :=
  ⟨⟨rfl, by decide⟩, ⟨rfl, by decide, by decide⟩⟩

theorem witness_CycleCounterPcAndFetch : Evaluates busy ∧ (∃ t, step busy = .next t) ∧
    (∃ r i, busy.latchD = some r ∧ r.opcode = .known i ∧ i.isBranch = true ∧ branchPc r = 2) ∧
    (∃ t, step { busy with pc := -1, latchD := none } = .next t) ∧
    (∃ t, step { busy with pc := 5, latchD := none } = .next t) :=
  ⟨busy_evaluates, busy_steps, ⟨_, _, rfl, rfl, rfl, by decide⟩, (goesOn_iff _).mp (by decide),
    (goesOn_iff _).mp (by decide)⟩

/-- R22, R23 at indices 0, 1, 31 and 32. -/
theorem witness_RegisterPorts :
    (busy.writeReg 0 5).readReg 0 = 0 ∧ (busy.writeReg 1 5).readReg 1 = 5 ∧ (busy.writeReg 31 5).readReg 31 = 5 ∧
    (busy.writeReg 32 5).reports = [.invalidRegisterIndex] := by decide

/-- R56 at every bound of its clauses. -/
theorem witness_BoundsCheck :
    busy.accessReports (-1) = [.memoryOutOfBounds] ∧ busy.accessReports 0 = [] ∧ busy.accessReports 8188 = [] ∧
    busy.accessReports 8189 = [.unalignedOversizeAccess] ∧ busy.accessReports 8191 = [.unalignedOversizeAccess] ∧
    busy.accessReports 8192 = [.memoryOutOfBounds] := by decide

theorem witness_WordReadAndWrite_WordRoundTrip :
    busy.mem.wf busy.config.memBytes = true ∧ (8188 : Int) + 4 ≤ busy.config.memBytes ∧
    (busy.config.memBytes : Int) < 8189 + 4 ∧ (busy.hostWriteWord 8188 0x01020304).readWord 8188 = 0x01020304 ∧
    (busy.hostWriteWord 8189 5).mem = busy.mem := by decide

theorem witness_WordBankAgreement : Memory.wf 8 bytes8 = true ∧ Memory.wordAt bytes8 (4 * 0 + 3) = 0x77665544 := by
  decide

theorem witness_CanonicalMemoryIsExtensional : Memory.wf 8 bytes8 = true ∧ Memory.wf 8 [] = true ∧
    ∀ a, Memory.byteAt bytes8 a = Memory.byteAt bytes8 a := ⟨by decide, by decide, fun _ => rfl⟩

/-- The hypotheses of `Decodes`, `Computes`, `Moves` and `WritesRd`, for all statements made of them. -/
theorem witness_stages :
    (∃ (s : State) (f : FetchRecord), s.stage = .decode ∧ s.latchF = some f ∧ s.config.hazardPolicy = .oldValue) ∧
    (∃ (s : State) (r : Record) (b : Word), s.stage = .execute ∧ s.latchD = some r ∧ r.rt = .value b ∧
      s.config.branchPolicy = .literal) ∧
    (∃ (s : State) (r : Record), s.stage = .memory ∧ s.latchE = some r) ∧
    (∃ (s : State) (r : Record), s.stage = .writeBack ∧ s.latchM = some r) :=
  ⟨⟨{ busy with stage := .decode }, _, rfl, rfl, rfl⟩, ⟨{ busy with stage := .execute }, _, _, rfl, rfl, rfl, rfl⟩,
    ⟨{ busy with stage := .memory }, _, rfl, rfl⟩, ⟨busy, _, rfl, rfl⟩⟩

/-- Divisors 0 and -1, and -7 by 2, the inexact division of opposite signs, under both values of DIV_REMAINDER. -/
theorem witness_Division :
    (∃ r : Record, r.rt = .value 0) ∧ (0xFFFFFFFF : Word) ≠ 0 ∧ (0xFFFFFFFF : Word).toInt < 0 ∧
    ((0xFFFFFFF9 : Word).toInt = -4 * (2 : Word).toInt + 1 ∧ (0xFFFFFFF9 : Word).toInt * (2 : Word).toInt < 0) ∧
    Config.reference.divRemainder = .floored ∧
    goesOn (exec (.div 3 1 2) { busy with
      stage := .execute, config := { Config.reference with divRemainder := .anyValue }
      latchD := some (recOf (.div 3 1 2) 0xFFFFFFF9 2) }) = true :=
  ⟨⟨recOf (.div 3 1 2) 5 0, rfl⟩, by decide, by decide, by decide, rfl, by decide⟩

/-- Amounts 31 and 32 under both values of SHIFT_POLICY. -/
theorem witness_Shifts :
    Config.reference.shiftPolicy = .low5 ∧
    (let s (a : Word) : State := { busy with
        stage := .execute, config := { Config.reference with shiftPolicy := .refuse }
        latchD := some (recOf (.sll 2 1 3) 1 a) };
      (goesOn (exec (.sll 2 1 3) (s 31)) = true ∧ exec (.sll 2 1 3) (s 32) = .refused .shiftAmount)) :=
  ⟨rfl, by decide, rfl⟩

/-- Effective addresses at the bounds of the clauses. -/
theorem witness_LoadWord_StoreWord :
    (∃ (s : State) (r : Record), s.stage = .memory ∧ s.latchE = some r ∧ 0 ≤ r.memoryAddress ∧
      r.memoryAddress + 4 = s.config.memBytes ∧ s.mem.wf s.config.memBytes = true) ∧
    (∃ (s : State) (r : Record), s.stage = .memory ∧ s.latchE = some r ∧ r.memoryAddress < 0) ∧
    (∃ (s : State) (r : Record), s.stage = .memory ∧ s.latchE = some r ∧
      r.memoryAddress + 3 = s.config.memBytes) :=
  let s (a : Int) : State := { busy with
    stage := .memory, latchE := some { recOf (.lw 2 (lit 0) 0) 0 0 with memoryAddress := a } }
  ⟨⟨s 8188, _, rfl, rfl, by decide, by decide, by decide⟩, ⟨s (-1), _, rfl, rfl, by decide⟩,
    ⟨s 8189, _, rfl, rfl, by decide⟩⟩

/-- Equal and different comparands in EX. -/
theorem witness_Branches :
    (∃ r, busy.latchD = some r ∧ r.rt = .value 3 ∧ r.rs = r.branchComparand) ∧
    (∃ r : Record, r.rt = .value 3 ∧ r.rs ≠ r.branchComparand) :=
  ⟨⟨_, rfl, rfl, rfl⟩, ⟨recOf (.beq 1 2 (lit 3)) 1 3, rfl, by decide⟩⟩

theorem witness_NopAndUnknown_WriteBackSet :
    busy.stage = .writeBack ∧ (∃ f, busy.latchF = some f) ∧ (∃ r, busy.latchM = some r) ∧
    Instr.add 1 2 3 ≠ .nop ∧ (∀ t off b, Instr.add 1 2 3 ≠ .sw t off b) ∧
    (∀ a b tgt, Instr.add 1 2 3 ≠ .beq a b tgt) ∧ (∀ a b tgt, Instr.add 1 2 3 ≠ .bne a b tgt) :=
  ⟨rfl, ⟨_, rfl⟩, ⟨_, rfl⟩, by decide, by simp, by simp, by simp⟩

/-- The three instruction frames: a store in MEM, a register write in WB, a division in EX. -/
theorem witness_frames :
    (∃ t, exec (.sw 2 (lit 0) 0) { busy with stage := .memory } = .next t) ∧
    (∃ t, exec (.add 2 1 1) busy = .next t) ∧
    (∃ t, exec (.div 2 1 1) { busy with stage := .execute } = .next t) :=
  ⟨(goesOn_iff _).mp (by decide), (goesOn_iff _).mp (by decide), (goesOn_iff _).mp (by decide)⟩

/-- A cycle that changes a register, memory and HI. -/
theorem witness_CycleFrame :
    (Result.state? (step { busy with
      latchM := some { recOf (.add 2 1 1) 0 0 with result := 9 }
      latchE := some { recOf (.sw 2 (lit 0) 0) 0 0 with memoryAddress := 8188, memoryValue := 0x01000000 }
      latchD := some (recOf (.div 3 1 2) 7 2) })).map (fun t => (t.readReg 2, t.mem, t.hi)) =
    some (9, [(8191, 1)], 1) := by decide

theorem witness_DecodeSeesSameCycleWriteBack :
    ∃ f i t, Evaluates busy ∧ busy.latchF = some f ∧ f.raw.decode = .instr i ∧ i ≠ .nop ∧ step busy = .next t :=
  busy_steps.elim fun t h => ⟨_, .li 5 (lit 1), t, busy_evaluates, rfl, by decide, by decide, h⟩

theorem witness_TakenBranchHasOneDelaySlot :
    (∃ r i t, Evaluates busy ∧ busy.latchD = some r ∧ r.rt = .value 3 ∧ r.opcode = .known i ∧
      (∃ a b tgt, i = .beq a b tgt ∧ (true = true ↔ r.rs = r.branchComparand)) ∧ step busy = .next t) ∧
    (∃ f, busy.latchF = some f ∧ f.raw.decode ≠ .instr .nop) ∧
    (Result.state? (step busy)).map (fun t => (t.pc, t.latchF.map (·.address))) = some (3, some 2) ∧
    (Result.state? (step { busy with latchD := some (recOf (.bne 1 2 (lit 0)) 1 0) })).map
      (fun t => (t.pc, t.latchF)) = some (0, none) :=
  ⟨busy_steps.elim fun t h =>
      ⟨_, _, t, busy_evaluates, rfl, rfl, rfl, ⟨1, 2, lit 3, rfl, by simp [recOf]⟩, h⟩,
    ⟨_, rfl, by decide⟩, by decide, by decide⟩

theorem witness_HighNeedsNoSpacing :
    let s : State := { busy with
      latchD := some (recOf (.div 3 1 2) 7 2), latchF := some { address := 3, raw := .text "MFHI $4".toList } }
    Evaluates s ∧ s.cycles + 2 ≤ s.config.ceiling ∧ Line.decode (.text "MFHI $4".toList) = .instr (.mfhi 4) ∧
      ∃ t, advanceCycles 2 s = .next t :=
  ⟨⟨by decide, by decide⟩, by decide, by decide, (goesOn_iff _).mp (by decide)⟩

theorem witness_LoadSeesPrecedingStore :
    let s : State := { busy with
      latchE := some { recOf (.sw 2 (lit 0) 0) 0 0 with memoryAddress := 8188, memoryValue := 5 }
      latchD := some { recOf (.lw 3 (lit 0) 0) 0 0 with memoryAddress := 8188 } }
    Evaluates s ∧ s.cycles + 2 ≤ s.config.ceiling ∧ s.mem.wf s.config.memBytes = true ∧ ∃ t, advanceCycles 2 s = .next t :=
  ⟨⟨by decide, by decide⟩, by decide, by decide, (goesOn_iff _).mp (by decide)⟩

/-- One line, then nothing. -/
theorem witness_IsolatedInstructionHasItsEffect :
    ∃ (s : State) (i : Instr), Ready s ∧ s.cycles + 5 ≤ s.config.ceiling ∧ i ≠ .nop ∧ i.isBranch = false ∧
      LineIs s s.pc.toNat i ∧
      (∀ k l, s.prog[k]? = some l → s.pc.toNat < k → k ≤ s.pc.toNat + 4 → l.isBlank = true) := by
  refine ⟨loaded ["LI $1, 4"], .li 1 (lit 4), ⟨by decide, by decide, by decide, by decide⟩, by decide, by decide,
    by decide, ⟨_, rfl, by decide⟩, ?_⟩
  intro k l h hk _
  match k, hk, h with
  | k + 1, _, h => cases h

/-- The hypotheses of ReadAfterWriteDistance for the instructions of section 2.6 at distance `n`. -/
def AtDistance (n : Nat) (s : State) : Prop :=
  Ready s ∧ s.cycles + n + 5 ≤ s.config.ceiling ∧ LineIs s s.pc.toNat (.li 1 (lit 7)) ∧
  LineIs s (s.pc.toNat + n) (.add 2 1 1) ∧
  ∀ k l, s.prog[k]? = some l → s.pc.toNat < k → k ≤ s.pc.toNat + n + 4 → k ≠ s.pc.toNat + n → l.isBlank = true

/-- Section 2.6 at the distances 1, 2 and 3. -/
theorem witness_ReadAfterWriteDistance :
    (∃ s, AtDistance 1 s) ∧ (∃ s, AtDistance 2 s) ∧ (∃ s, AtDistance 3 s) ∧
    Instr.li 1 (lit 7) ≠ .nop ∧ Instr.add 2 1 1 ≠ .nop ∧
    (Instr.li 1 (lit 7)).isBranch = false ∧ (Instr.add 2 1 1).isBranch = false := by
  refine ⟨⟨loaded ["LI $1, 7", "ADD $2, $1, $1"], ⟨by decide, by decide, by decide, by decide⟩, by decide,
      ⟨_, rfl, by decide⟩, ⟨_, rfl, by decide⟩, ?_⟩,
    ⟨loaded ["LI $1, 7", "", "ADD $2, $1, $1"], ⟨by decide, by decide, by decide, by decide⟩, by decide,
      ⟨_, rfl, by decide⟩, ⟨_, rfl, by decide⟩, ?_⟩,
    ⟨loaded ["LI $1, 7", "", "", "ADD $2, $1, $1"], ⟨by decide, by decide, by decide, by decide⟩, by decide,
      ⟨_, rfl, by decide⟩, ⟨_, rfl, by decide⟩, ?_⟩, by decide, by decide, by decide, by decide⟩
  · intro k l h hk _ hne
    match k, hk, hne, h with
    | 1, _, hne, _ => exact absurd rfl hne
    | k + 2, _, _, h => cases h
  · intro k l h hk _ hne
    match k, hk, hne, h with
    | 1, _, _, h => cases h; rfl
    | 2, _, hne, _ => exact absurd rfl hne
    | k + 3, _, _, h => cases h
  · intro k l h hk _ hne
    match k, hk, hne, h with
    | 1, _, _, h => cases h; rfl
    | 2, _, _, h => cases h; rfl
    | 3, _, hne, _ => exact absurd rfl hne
    | k + 4, _, _, h => cases h

theorem witness_SpacedProgramIsSequential :
    ∃ (s : State) (ls : List Line) (is : List Instr), Ready s ∧ s.pc = 0 ∧ s.cycles = 0 ∧ s.prog = spaced ls ∧
      ls.map Line.decode = is.map .instr ∧ (∀ i ∈ is, i.isBranch = false) ∧
      3 * is.length + 2 ≤ s.config.ceiling ∧ is.length = 2 :=
  ⟨loaded ["LI $1, 7", "", "", "ADD $2, $1, $1", "", ""], [.text "LI $1, 7".toList, .text "ADD $2, $1, $1".toList],
    [.li 1 (lit 7), .add 2 1 1], ⟨by decide, by decide, by decide, by decide⟩, rfl, rfl, by decide, by decide,
    by decide, by decide, rfl⟩

/-- A program whose last line that is not blank is line 1; and one of a blank line only. -/
theorem witness_BranchFreeProgramDrains :
    (∃ (s : State) (lk : Line), Ready s ∧ s.pc = 0 ∧ s.cycles = 0 ∧
      (∀ l ∈ s.prog, l.wellFormed = true ∧ ∀ i, l.decode = .instr i → i.isBranch = false) ∧
      s.prog[1]? = some lk ∧ lk.isBlank = false ∧ (∀ j l, 1 < j → s.prog[j]? = some l → l.isBlank = true) ∧
      max s.prog.length (1 + 5) ≤ s.config.ceiling) ∧
    (∃ s : State, Ready s ∧ s.pc = 0 ∧ s.cycles = 0 ∧
      (∀ l ∈ s.prog, l.wellFormed = true ∧ ∀ i, l.decode = .instr i → i.isBranch = false) ∧
      (∀ l ∈ s.prog, l.isBlank = true) ∧ s.prog.length = 1 ∧ 1 ≤ s.config.ceiling) := by
  have nop : Line.decode (.text []) = .instr .nop := by decide
  refine ⟨?_, loaded [""], ⟨by decide, by decide, by decide, by decide⟩, rfl, rfl, ?_, ?_, rfl, by decide⟩
  case refine_2 =>
    intro l hl
    obtain rfl : l = .text [] := List.mem_singleton.mp hl
    exact ⟨by decide, fun i h => by rw [nop] at h; cases h; rfl⟩
  case refine_3 =>
    intro l hl
    obtain rfl : l = .text [] := List.mem_singleton.mp hl
    rfl
  refine ⟨loaded ["FOO", "LI $1, 1", ""], _, ⟨by decide, by decide, by decide, by decide⟩, rfl, rfl, ?_, rfl, by decide,
    ?_, by decide⟩
  · intro l hl
    have h : l ∈ [Line.text "FOO".toList, .text "LI $1, 1".toList, .text []] := by
      have e : (loaded ["FOO", "LI $1, 1", ""]).prog = [Line.text "FOO".toList, .text "LI $1, 1".toList, .text []] := by
        decide
      rw [← e]; exact hl
    simp only [List.mem_cons, List.not_mem_nil, or_false] at h
    obtain rfl | rfl | rfl := h
    · have e : Line.decode (.text "FOO".toList) = .unknown "FOO".toList := by decide
      exact ⟨by decide, fun i h => by rw [e] at h; cases h⟩
    · have e : Line.decode (.text "LI $1, 1".toList) = .instr (.li 1 (lit 1)) := by decide
      exact ⟨by decide, fun i h => by rw [e] at h; cases h; rfl⟩
    · exact ⟨by decide, fun i h => by rw [nop] at h; cases h; rfl⟩
  · intro j l hj h
    match j, hj, h with
    | 2, _, h => cases h; rfl
    | j + 3, _, h => cases h

theorem witness_ReportsAndRunStateDoNotInfluence :
    SameCore busy { busy with runState := .steppingOnce, reports := [.divisionByZero] } ∧
    (busy.runState = .halted ↔
      ({ busy with runState := .steppingOnce, reports := [.divisionByZero] } : State).runState = .halted) :=
  ⟨rfl, by decide⟩

theorem witness_StopAndLoadProgram : ["LI $1, 1".toList, " # c".toList][1]? = some " # c".toList ∧
    (Line.text (normalise " # c".toList)).isBlank = true ∧ (Line.text (normalise "LI $1, 1".toList)).isBlank = false := by
  decide

theorem witness_SnapshotThenRestore : ∃ t, advanceCycles 1 busy.snapshot = .next t := (goesOn_iff _).mp (by decide)

theorem witness_RunIsRepeatedStepOnce : ∃ t, (loaded ["LI $1, 1"]).runState = .idle ∧
    runFor 2 (loaded ["LI $1, 1"]) = .next t :=
  ((goesOn_iff (runFor 2 (loaded ["LI $1, 1"]))).mp (by decide)).elim fun t h => ⟨t, rfl, h⟩

end Sys2Proof.Tests
end

section
/-! PROOF. Every step keeps the invariant of the core. First what decoding can answer, then what each stage of a cycle can
do, then an invariant of the middle of a cycle that the first four stages keep and the fetch turns back into `Inv`. -/

namespace Sys2Proof

/-! ## Only a blank line decodes to NOP -/

/-- No mnemonic has NOP as its canonical form (R92). -/
theorem canonical_ne_nop (m : Mnemonic) (ops : List Token) : canonical m ops ≠ some .nop := by
  unfold canonical
  split <;> simp

theorem decodeTokens_ne_nop (toks : List (List Char)) : decodeTokens toks ≠ .instr .nop := by
  unfold decodeTokens
  split
  · simp
  · split
    · simp
    · split
      · next h => rintro ⟨⟩; exact canonical_ne_nop _ _ h
      · simp

/-- The word 0 is the only image of NOP (R98, R222). -/
theorem eq_zero_of_decodeImage_nop {w : BitVec 32} (h : decodeImage w = .instr .nop) : w = 0 := by
  unfold decodeImage at h
  split at h
  · split at h
    · assumption
    · cases h
  all_goals simp [imageR3, imageI3, imageM, imageI2, imageR1, ite_eq_iff] at h

/-- A line that is not blank never decodes to NOP (R81, R222). -/
theorem Line.isBlank_of_decode_nop {l : Line} (h : l.decode = .instr .nop) : l.isBlank = true := by
  cases l with
  | text raw =>
    simp only [Line.decode, decodeText] at h
    split at h
    · assumption
    · exact absurd h (decodeTokens_ne_nop _)
  | image w => exact beq_iff_eq.mpr (eq_zero_of_decodeImage_nop h)

end Sys2Proof

namespace Sys2Proof.Machine

/-! ## The record the decode stage makes -/

@[simp] theorem decodeFill_raw (i : Instr) (s : State) (r : Record) : (decodeFill i s r).raw = r.raw := by
  cases i <;> rfl

@[simp] theorem decodeFill_opcode (i : Instr) (s : State) (r : Record) : (decodeFill i s r).opcode = r.opcode := by
  cases i <;> rfl

theorem decodeFill_rd {i : Instr} (hi : i ≠ .nop) (s : State) (r : Record) : (decodeFill i s r).rd = i.token1 := by
  cases i
  case nop => exact absurd rfl hi
  all_goals rfl

/-- Only a load or store line assigns `memoryAddress`, its effective address (R130). -/
theorem decodeFill_memoryAddress (i : Instr) (s : State) (r : Record) :
    (decodeFill i s r).memoryAddress = r.memoryAddress ∨
    ∃ b off, (decodeFill i s r).memoryAddress = s.effectiveAddress b off := by
  cases i
  case lw t off b => exact .inr ⟨b, off, rfl⟩
  case sw t off b => exact .inr ⟨b, off, rfl⟩
  all_goals exact .inl rfl

/-- The range of R52: a 32-bit base plus a signed 16-bit offset. -/
theorem State.effectiveAddress_range (s : State) (b : Nat) (off : Lit) :
    -32768 ≤ s.effectiveAddress b off ∧ s.effectiveAddress b off ≤ 2 ^ 32 + 32766 := by
  have hb : (s.readReg b).toNat < 2 ^ 32 := (s.readReg b).isLt
  have hlo := off.value.le_toInt
  have hhi := off.value.toInt_lt
  unfold State.effectiveAddress
  omega

/-- The range of R28: a signed 16-bit target less 1. -/
theorem branchPc_range (r : Record) : -32769 ≤ branchPc r ∧ branchPc r ≤ 32766 := by
  have hlo := (r.rt.word.setWidth 16).le_toInt
  have hhi := (r.rt.word.setWidth 16).toInt_lt
  unfold branchPc sext16
  omega

/-- A line is fetched at a pc of 0 or more only (R132). -/
theorem State.pc_nonneg_of_lineAtPc {s : State} {l : Line} (h : s.lineAtPc = some l) : 0 ≤ s.pc := by
  unfold State.lineAtPc at h
  split at h
  · assumption
  · cases h

/-! ## Records that satisfy their invariant -/

theorem recordInv_decodeFill {f : FetchRecord} {i : Instr} (s : State) (hd : f.raw.decode = .instr i) (hi : i ≠ .nop) :
    RecordInv (decodeFill i s (f.fresh (.known i))) := by
  have range : -32768 ≤ (decodeFill i s (f.fresh (.known i))).memoryAddress ∧
      (decodeFill i s (f.fresh (.known i))).memoryAddress ≤ 2 ^ 32 + 32766 := by
    obtain h | ⟨b, off, h⟩ := decodeFill_memoryAddress i s (f.fresh (.known i))
    · rw [h]; exact ⟨by simp [FetchRecord.fresh], by simp [FetchRecord.fresh]⟩
    · rw [h]; exact s.effectiveAddress_range b off
  exact ⟨by simp [FetchRecord.fresh, decodeFill_rd hi, hd, hi], range.1, range.2⟩

theorem recordInv_fresh_unknown {f : FetchRecord} {m : List Char} (hd : f.raw.decode = .unknown m) :
    RecordInv (f.fresh (.unknown m)) :=
  ⟨hd, by simp [FetchRecord.fresh], by simp [FetchRecord.fresh]⟩

/-- Moving records on and setting `result` keeps what records satisfy. -/
theorem recordInv_of_moved {old new : Option Record}
    (move : ∀ r, new = some r → ∃ r', old = some r' ∧ r = { r' with result := r.result })
    (h : ∀ r, old = some r → RecordInv r) : ∀ r, new = some r → RecordInv r := by
  intro r hr
  obtain ⟨r', hr', e⟩ := move r hr
  obtain ⟨hop, hlo, hhi⟩ := h r' hr'
  rw [e]
  exact ⟨hop, hlo, hhi⟩

/-! ## What each stage of a cycle can do -/

section Stages

variable {s t : State}

/-- Register 0 is never written (R23). -/
theorem State.writeReg_regs_zero (s : State) (i : Nat) (v : Word) : (s.writeReg i v).regs[0] = s.regs[0] := by
  rw [State.writeReg_regs]
  split
  · next h => exact Vector.getElem_set_ne _ _ h.1
  · rfl

/-- WB does nothing, or one write through the write port (R122). -/
theorem writeBackState_cases (s : State) :
    writeBackState s = s ∨ ∃ k v, writeBackState s = s.writeReg k v := by
  unfold writeBackState
  split
  · exact .inl rfl
  · split
    · split
      · exact .inr ⟨_, _, rfl⟩
      · exact .inl rfl
    · exact .inl rfl

/-- MEM moves the record of E to M, and at most stores one word (R124). -/
theorem evalStage_memory_next (h : evalStage .memory s = .next t) : ∃ m mem' ks,
    t = ({ s with stage := .memory, latchM := m, mem := mem' } : State).report ks ∧
    (mem' = s.mem ∨ ∃ a w, mem' = s.storeWord a w) ∧
    (∀ r, m = some r → ∃ r', s.latchE = some r' ∧ r = { r' with result := r.result }) := by
  rw [evalStage_memory] at h
  split at h
  · obtain ⟨m, mem', ks, e, hmem, hm⟩ := memoryPart_eq _ { s with stage := .memory }
    rw [e] at h
    cases h
    refine ⟨m, mem', ks, rfl, ?_, hm⟩
    obtain hmem | ⟨_, _, _, r, _, _, hmem⟩ := hmem
    · exact .inl hmem
    · exact .inr ⟨_, _, hmem⟩
  · cases h
    exact ⟨s.latchE, s.mem, [], (State.report_nil _).symm, .inl rfl, fun r hr => ⟨r, hr, rfl⟩⟩

/-- EX moves the record of D to E, and may write HI and the pc of a taken branch (R125, R126, R201). -/
theorem evalStage_execute_next (h : evalStage .execute s = .next t) : ∃ e hi' pc' ks,
    t = ({ s with stage := .execute, latchE := e, hi := hi', pc := pc' } : State).report ks ∧
    (pc' = s.pc ∨ ∃ r, pc' = branchPc r) ∧
    (∀ r, e = some r → ∃ r', s.latchD = some r' ∧ r = { r' with result := r.result }) := by
  rw [evalStage_execute] at h
  split at h
  · obtain ⟨e, hi', pc', ks, rfl, -, hpc, he⟩ := executePart_next h
    refine ⟨e, hi', pc', ks, rfl, ?_, he⟩
    obtain hpc | ⟨r, _, _, hpc⟩ := hpc
    · exact .inl hpc
    · exact .inr ⟨r, hpc⟩
  · cases h
    exact ⟨s.latchD, s.hi, s.pc, [], (State.report_nil _).symm, .inl rfl, fun r hr => ⟨r, hr, rfl⟩⟩

/-- DE writes D only: empty, the bare record of an unknown mnemonic, or the filled record of an instruction (R127). -/
theorem evalStage_decode_next (h : evalStage .decode s = .next t) : ∃ d ks,
    t = ({ s with stage := .decode, latchD := d } : State).report ks ∧
    (d = none ∨ ∃ f, s.latchF = some f ∧
      ((∃ m, f.raw.decode = .unknown m ∧ d = some (f.fresh (.unknown m))) ∨
       (∃ i, f.raw.decode = .instr i ∧ i ≠ .nop ∧
         d = some (decodeFill i { s with stage := .decode } (f.fresh (.known i)))))) := by
  rw [evalStage_decode] at h
  split at h
  · cases h
    exact ⟨none, [], (State.report_nil _).symm, .inl rfl⟩
  · next f hF =>
    split at h
    · next i hd =>
      by_cases hi : i = .nop
      · rw [hi, exec_decode_nop rfl] at h
        cases h
        exact ⟨none, [], (State.report_nil _).symm, .inl rfl⟩
      · rw [exec_decode rfl hi] at h
        obtain ⟨hF', -⟩ | ⟨_, _, _, _, e⟩ | ⟨f', hF', _, e⟩ := decodeWith_cases i
          (decodeFill i { s with stage := .decode }) (decodeReports i) { s with stage := .decode }
        · exact absurd (hF.symm.trans hF') (by simp)
        · rw [e] at h; cases h
        · obtain rfl : f = f' := Option.some.inj (hF.symm.trans hF')
          rw [e] at h
          cases h
          exact ⟨_, _, rfl, .inr ⟨f, hF, .inr ⟨i, hd, hi, rfl⟩⟩⟩
    · next m hd =>
      cases h
      exact ⟨_, [], (State.report_nil _).symm, .inr ⟨f, hF, .inl ⟨m, hd, rfl⟩⟩⟩
    · cases h

/-- A cycle that answers has answered in each of its five stages (R120). -/
theorem evalCycle_next (h : evalCycle s = .next t) : ∃ s₂ s₃ s₄ s₅,
    evalStage .memory (writeBackState { s with stage := .writeBack }) = .next s₂ ∧
    evalStage .execute s₂ = .next s₃ ∧ evalStage .decode s₃ = .next s₄ ∧
    evalStage .fetch s₄ = .next s₅ ∧ t = { s₅ with cycles := s₅.cycles + 1, stage := .writeBack } := by
  simp only [evalCycle, evalStage_writeBack, Result.andThen_next] at h
  obtain ⟨s₂, h₂, h⟩ := Result.andThen_eq_next.mp h
  obtain ⟨s₃, h₃, h⟩ := Result.andThen_eq_next.mp h
  obtain ⟨s₄, h₄, h⟩ := Result.andThen_eq_next.mp h
  obtain ⟨s₅, h₅, h⟩ := Result.andThen_eq_next.mp h
  cases h
  exact ⟨s₂, s₃, s₄, s₅, h₂, h₃, h₄, h₅, rfl⟩

end Stages

/-! ## The invariant in the middle of a cycle -/

/-- What holds between the stages of a cycle, before its fetch. It differs from `Inv` where a stage breaks `Inv` for a
while: `stage` moves on, and a taken branch parts the pc from `currentLine` until the fetch writes both. The core runs, and
the cycle that is evaluated is not yet counted. -/
structure CycleInv (s : State) : Prop where
  config_wf : s.config.wf = true
  reg_zero : s.regs[0] = 0
  mem_wf : s.mem.wf s.config.memBytes = true
  baseline_wf : s.baselineMem.wf s.config.memBytes = true
  cycles_lt : s.cycles < s.config.ceiling
  pc_low : -32769 ≤ s.pc
  pc_high : s.pc ≤ 32766 + s.cycles
  running : s.runState ≠ .halted
  no_halt_cause : s.haltCause = none
  fetched_not_blank : ∀ f, s.latchF = some f → f.raw.isBlank = false
  recordD : ∀ r, s.latchD = some r → RecordInv r
  recordE : ∀ r, s.latchE = some r → RecordInv r
  recordM : ∀ r, s.latchM = some r → RecordInv r

section CycleInv

variable {s t : State}

/-- A cycle starts in its invariant. -/
theorem Inv.cycleInv (h : Inv s) (running : s.runState ≠ .halted) (test : s.haltTest = false) : CycleInv s where
  config_wf := h.config_wf
  reg_zero := h.reg_zero
  mem_wf := h.mem_wf
  baseline_wf := h.baseline_wf
  cycles_lt := by
    simp only [State.haltTest, Bool.or_eq_false_iff, decide_eq_false_iff_not] at test
    omega
  pc_low := h.pc_low
  pc_high := h.pc_high
  running := running
  no_halt_cause := by simpa using mt h.halt_cause.mp running
  fetched_not_blank := h.fetched_not_blank
  recordD := h.recordD
  recordE := h.recordE
  recordM := h.recordM

/-- Neither `stage` nor the report lists occur in the invariant of a cycle. -/
theorem CycleInv.bookkeeping (h : CycleInv s) (k : Stage) (now log : List Report) :
    CycleInv { s with stage := k, reports := now, reportLog := log } := { h with }

theorem CycleInv.writeReg (h : CycleInv s) (k : Nat) (v : Word) : CycleInv (s.writeReg k v) := by
  have reg_zero : (s.writeReg k v).regs[0] = 0 := (s.writeReg_regs_zero k v).trans h.reg_zero
  obtain ⟨-, e⟩ | ⟨_, -, e⟩ | ⟨-, e⟩ := s.writeReg_cases k v
  · rwa [e]
  · rw [e] at reg_zero ⊢; exact { h with reg_zero }
  · rw [e]; exact { h with }

theorem CycleInv.writeBack (h : CycleInv s) : CycleInv (writeBackState s) := by
  obtain e | ⟨k, v, e⟩ := writeBackState_cases s
  · rwa [e]
  · rw [e]; exact h.writeReg k v

theorem CycleInv.memory (h : CycleInv s) (hs : evalStage .memory s = .next t) : CycleInv t := by
  obtain ⟨m, mem', ks, rfl, hmem, hm⟩ := evalStage_memory_next hs
  have mem_wf : mem'.wf s.config.memBytes = true := by
    obtain rfl | ⟨a, w, rfl⟩ := hmem
    · exact h.mem_wf
    · exact s.wf_storeWord a w h.mem_wf
  exact { h with mem_wf, recordM := recordInv_of_moved hm h.recordE }

theorem CycleInv.execute (h : CycleInv s) (hs : evalStage .execute s = .next t) : CycleInv t := by
  obtain ⟨e, hi', pc', ks, rfl, hpc, he⟩ := evalStage_execute_next hs
  have range : -32769 ≤ pc' ∧ pc' ≤ 32766 + s.cycles := by
    obtain rfl | ⟨r, rfl⟩ := hpc
    · exact ⟨h.pc_low, h.pc_high⟩
    · have := branchPc_range r
      omega
  exact { h with pc_low := range.1, pc_high := range.2, recordE := recordInv_of_moved he h.recordD }

/-- The record decode makes is not of NOP, since a blank line never enters latch F. -/
theorem CycleInv.decode (h : CycleInv s) (hs : evalStage .decode s = .next t) : CycleInv t := by
  obtain ⟨d, ks, rfl, hd⟩ := evalStage_decode_next hs
  have recordD : ∀ r, d = some r → RecordInv r := by
    rintro r rfl
    obtain e | ⟨f, -, ⟨m, hf, hr⟩ | ⟨i, hf, hi, hr⟩⟩ := hd
    · cases e
    · rw [Option.some.inj hr]; exact recordInv_fresh_unknown hf
    · rw [Option.some.inj hr]; exact recordInv_decodeFill _ hf hi
  exact { h with recordD }

/-- The fetch writes pc, `currentLine` and F together, and the cycle is counted: the invariant holds again. -/
theorem CycleInv.fetch (h : CycleInv s) (hs : evalStage .fetch s = .next t) :
    Inv { t with cycles := t.cycles + 1, stage := .writeBack } := by
  obtain ⟨f, cl, e, hline⟩ := fetchLine_eq { s with stage := .fetch }
  rw [evalStage_fetch, e] at hs
  cases hs
  have current_line : ∀ a, cl = some a → 0 ≤ a ∧ s.pc + 1 = a + 1 := by
    rintro a rfl
    obtain ⟨-, -, ⟨⟩⟩ | ⟨l, hl, ⟨⟩, -⟩ := hline
    exact ⟨State.pc_nonneg_of_lineAtPc hl, rfl⟩
  have fetched_not_blank : ∀ g, f = some g → g.raw.isBlank = false := by
    rintro g rfl
    obtain ⟨-, ⟨⟩, -⟩ | ⟨l, -, -, hf⟩ := hline
    split at hf
    · cases hf
    · next hblank => cases hf; exact Bool.eq_false_of_not_eq_true hblank
  have low := h.pc_low
  have high := h.pc_high
  exact {
    h with
    stage_start := rfl
    cycles_le := h.cycles_lt
    pc_low := by dsimp only; omega
    pc_high := by push_cast; omega
    current_line
    halted_clean := fun halted => absurd halted h.running
    halt_cause := by simp [h.no_halt_cause, h.running]
    fetched_not_blank }

/-- The five stages lead from the invariant of a cycle to the invariant between cycles. -/
theorem CycleInv.evalCycle (h : CycleInv s) (hs : evalCycle s = .next t) : Inv t := by
  obtain ⟨s₂, s₃, s₄, s₅, h₂, h₃, h₄, h₅, rfl⟩ := evalCycle_next hs
  have afterWriteBack := (h.bookkeeping .writeBack s.reports s.reportLog).writeBack
  exact (((afterWriteBack.memory h₂).execute h₃).decode h₄).fetch h₅

end CycleInv

/-! ## The invariant between cycles -/

section Inv

variable {s : State}

/-- The report lists do not occur in the invariant. -/
theorem Inv.setReports (h : Inv s) (now : List Report) : Inv { s with reports := now } := { h with }

/-- A halt leaves what R135 says, on memories and registers it does not touch. -/
theorem Inv.haltTransition (h : Inv s) : Inv s.haltTransition where
  config_wf := h.config_wf
  reg_zero := h.reg_zero
  mem_wf := h.mem_wf
  baseline_wf := h.baseline_wf
  stage_start := rfl
  cycles_le := Nat.zero_le _
  pc_low := by simp
  pc_high := by simp
  current_line := by simp
  halted_clean := by simp [State.latchesEmpty]
  halt_cause := by simp
  fetched_not_blank := by simp
  recordD := by simp
  recordE := by simp
  recordM := by simp

end Inv
end Sys2Proof.Machine

namespace Sys2Proof.Claims

open Sys2Proof.Machine

/-- Settles O10: a halted core and a halt transition keep the invariant at once; a cycle keeps it by way of the invariant
of its middle. -/
theorem stepKeepsInvariant : Obligations.StepKeepsInvariant := by
  intro s t h hs
  by_cases halted : s.runState = .halted
  · rw [step_halted halted] at hs
    cases hs
    exact h.setReports []
  · cases test : s.haltTest with
    | true =>
      rw [step_halting halted test] at hs
      cases hs
      exact h.haltTransition.setReports []
    | false =>
      rw [step_running halted test] at hs
      exact ((h.setReports []).cycleInv halted test).evalCycle hs

end Sys2Proof.Claims
end

section
/-! PROOF. Frames: what an instruction changes in each stage, and what a whole cycle changes, each said once and used for
the statements on single instructions and on cycles. -/

namespace Sys2Proof.Machine

variable {i : Instr} {s t : State}

/-! ## The register ports -/

theorem State.readReg_of_lt (s : State) {k : Nat} (h0 : k ≠ 0) (h : k < 32) : s.readReg k = s.regs[k] := by
  simp [State.readReg, h0, h]

theorem State.readReg_of_ge (s : State) {k : Nat} (h : 32 ≤ k) : s.readReg k = 0 := by
  simp [State.readReg, Nat.not_lt.mpr h]

theorem registerReports_of_lt {k : Nat} (h : k < 32) : registerReports k = [] := if_pos h

theorem registerReports_of_ge {k : Nat} (h : 32 ≤ k) : registerReports k = [.invalidRegisterIndex] :=
  if_neg (Nat.not_lt.mpr h)

theorem State.writeReg_zero (s : State) (v : Word) : s.writeReg 0 v = s := rfl

theorem State.writeReg_of_lt (s : State) {k : Nat} (h0 : k ≠ 0) (h : k < 32) (v : Word) :
    s.writeReg k v = { s with regs := s.regs.set k v } := by
  simp [State.writeReg, h0, h]

theorem State.writeReg_of_ge (s : State) {k : Nat} (h : 32 ≤ k) (v : Word) :
    s.writeReg k v = s.report [.invalidRegisterIndex] := by
  rw [State.writeReg, if_neg (by omega), dif_neg (Nat.not_lt.mpr h), registerReports_of_ge h]

/-- What is written can be read (R22, R23). -/
theorem State.readReg_writeReg_self (s : State) {k : Nat} (h0 : k ≠ 0) (h : k < 32) (v : Word) :
    (s.writeReg k v).readReg k = v := by
  rw [State.readReg_of_lt _ h0 h]
  simp [State.writeReg_of_lt s h0 h]

/-- A write changes no other register (R23). -/
theorem State.readReg_writeReg_of_ne (s : State) {j k : Nat} (hjk : j ≠ k) (v : Word) :
    (s.writeReg k v).readReg j = s.readReg j := by
  obtain ⟨-, e⟩ | ⟨hk, -, e⟩ | ⟨-, e⟩ := s.writeReg_cases k v
  · rw [e]
  · simp [e, State.readReg, Vector.getElem_set_ne hk _ (Ne.symm hjk)]
  · rw [e, State.readReg_report]

/-- A register that a write changes is the one written, with the value written. -/
theorem State.eq_of_readReg_writeReg_ne {j k : Nat} {v : Word} (h : (s.writeReg k v).readReg j ≠ s.readReg j) :
    k = j ∧ (s.writeReg k v).readReg j = v := by
  obtain rfl : j = k := by
    by_contra hjk
    exact h (s.readReg_writeReg_of_ne hjk v)
  obtain ⟨-, e⟩ | ⟨hk, h0, -⟩ | ⟨-, e⟩ := s.writeReg_cases j v
  · exact absurd (by rw [e]) h
  · exact ⟨rfl, s.readReg_writeReg_self h0 hk v⟩
  · exact absurd (by rw [e, State.readReg_report]) h

/-- The write port changes registers and report lists only (R23). -/
theorem State.writeReg_eq (s : State) (k : Nat) (v : Word) :
    s.writeReg k v = { s with
      regs := (s.writeReg k v).regs, reports := (s.writeReg k v).reports, reportLog := (s.writeReg k v).reportLog } := by
  obtain ⟨-, e⟩ | ⟨_, -, e⟩ | ⟨-, e⟩ := s.writeReg_cases k v
  all_goals rw [e]
  rfl

/-- The registers after a write depend on the registers before it only. -/
theorem State.writeReg_regs_congr (s t : State) (h : s.regs = t.regs) (k : Nat) (v : Word) :
    (s.writeReg k v).regs = (t.writeReg k v).regs := by
  rw [State.writeReg_regs, State.writeReg_regs, h]

/-! ## One instruction in one stage -/

/-- All that `exec` of an instruction can do to a state, by the stage it names. -/
inductive ExecEffect (i : Instr) (s : State) : State → Prop where
  /-- WB outside the write-back set, or of an empty latch (R123). -/
  | writeBackNone (stage : s.stage = .writeBack) : ExecEffect i s s
  /-- WB of the write-back set (R122). -/
  | writeBackRd (r : Record) (stage : s.stage = .writeBack) (latch : s.latchM = some r) (set : i.writesBack = true) :
      ExecEffect i s (s.writeReg r.rd r.result)
  /-- MEM (R124). -/
  | memory (m : Option Record) (mem' : Memory) (ks : List Report) (stage : s.stage = .memory) :
      ExecEffect i s ({ s with latchM := m, mem := mem' }.report ks)
  /-- EX (R125, R126): HI for DIV, the pc for a branch. -/
  | execute (e : Option Record) (hi' : Word) (pc' : Int) (ks : List Report) (stage : s.stage = .execute)
      (high : hi' = s.hi ∨ ∃ d a b, i = .div d a b) (branch : pc' = s.pc ∨ i.isBranch = true) :
      ExecEffect i s ({ s with latchE := e, hi := hi', pc := pc' }.report ks)
  /-- DE (R127). -/
  | decode (d : Option Record) (ks : List Report) (stage : s.stage = .decode) :
      ExecEffect i s ({ s with latchD := d }.report ks)
  /-- IF (R132). -/
  | fetch (f : Option FetchRecord) (line : Option Int) (stage : s.stage = .fetch) :
      ExecEffect i s { s with latchF := f, currentLine := line, pc := s.pc + 1 }

theorem exec_writeBack_effect (stage : s.stage = .writeBack) (h : exec i s = .next t) : ExecEffect i s t := by
  rw [exec_writeBack stage] at h
  split at h
  · next set =>
    rw [writeBackResult_eq] at h
    cases hM : s.latchM with
    | none => rw [hM] at h; cases h; exact .writeBackNone stage
    | some r => rw [hM] at h; cases h; exact .writeBackRd r stage hM set
  · cases h
    exact .writeBackNone stage

theorem exec_decode_effect (stage : s.stage = .decode) (h : exec i s = .next t) : ExecEffect i s t := by
  have empty : ExecEffect i s { s with latchD := none } :=
    State.report_nil { s with latchD := none } ▸ .decode none [] stage
  by_cases hi : i = .nop
  · rw [hi, exec_decode_nop stage] at h
    cases h
    exact empty
  · rw [exec_decode stage hi] at h
    obtain ⟨-, e⟩ | ⟨f, -, -, -, e⟩ | ⟨f, -, -, e⟩ := decodeWith_cases i (decodeFill i s) (decodeReports i) s
    · rw [e] at h; cases h; exact empty
    · rw [e] at h; cases h
    · rw [e] at h; cases h; exact .decode _ _ stage

/-- Whatever the stage, an instruction that answers has one of these effects. -/
theorem exec_effect (h : exec i s = .next t) : ExecEffect i s t := by
  cases stage : s.stage with
  | writeBack => exact exec_writeBack_effect stage h
  | memory =>
    obtain ⟨m, mem', ks, e, -⟩ := memoryPart_eq i s
    rw [exec_memory stage, e] at h
    cases h
    exact .memory m mem' ks stage
  | execute =>
    rw [exec_execute stage] at h
    obtain ⟨e, hi', pc', ks, rfl, high, branch, -⟩ := executePart_next h
    exact .execute e hi' pc' ks stage (high.imp_right fun ⟨d, a, b, _, hi, _⟩ => ⟨d, a, b, hi⟩)
      (branch.imp_right fun ⟨_, hb, _⟩ => hb)
  | decode => exact exec_decode_effect stage h
  | fetch =>
    obtain ⟨f, line, e, -⟩ := fetchLine_eq s
    rw [exec_fetch stage, e] at h
    cases h
    exact .fetch f line stage

/-! ## The stages of a cycle, with the instructions in front of them -/

theorem latchInstr_some {r : Record} : latchInstr (some r) = some i ↔ r.opcode = .known i := by
  cases hop : r.opcode <;> simp [latchInstr, hop]

/-- WB changes registers and report lists only (R122). -/
theorem writeBackState_eq (s : State) : writeBackState s = { s with
    regs := (writeBackState s).regs, reports := (writeBackState s).reports,
    reportLog := (writeBackState s).reportLog } := by
  obtain e | ⟨k, v, e⟩ := writeBackState_cases s
  · rw [e]
  · rw [e]
    exact s.writeReg_eq k v

/-- WB changes registers only for an instruction of the write-back set in M, and then by one write (R122). -/
theorem writeBackState_regs (s : State) : (writeBackState s).regs = s.regs ∨
    ∃ r i, s.latchM = some r ∧ r.opcode = .known i ∧ i.writesBack = true ∧
      (writeBackState s).regs = (s.writeReg r.rd r.result).regs := by
  unfold writeBackState
  split
  · exact .inl rfl
  · next r latch =>
    split
    · next i hop =>
      split
      · next set => exact .inr ⟨r, i, latch, hop, set, rfl⟩
      · exact .inl rfl
    · exact .inl rfl

/-- MEM changes M, and memory only for a SW in E (R124). -/
theorem evalStage_memory_effect (h : evalStage .memory s = .next t) : ∃ m mem' ks,
    t = ({ s with stage := .memory, latchM := m, mem := mem' } : State).report ks ∧
    (mem' = s.mem ∨ ∃ r x off b, s.latchE = some r ∧ r.opcode = .known (.sw x off b) ∧
      mem' = s.storeWord r.memoryAddress r.memoryValue) := by
  rw [evalStage_memory] at h
  split at h
  · next i hi =>
    obtain ⟨m, mem', ks, e, hmem, -⟩ := memoryPart_eq i { s with stage := .memory }
    rw [e] at h
    cases h
    refine ⟨m, mem', ks, rfl, hmem.imp_right ?_⟩
    rintro ⟨x, off, b, r, rfl, hE, hmem⟩
    replace hE : s.latchE = some r := hE
    exact ⟨r, x, off, b, hE, latchInstr_some.mp (hE ▸ hi), hmem⟩
  · cases h
    exact ⟨_, _, [], (State.report_nil _).symm, .inl rfl⟩

/-- EX changes E, HI only for a DIV in D, and the pc only for a branch in D (R125, R126, R201). -/
theorem evalStage_execute_effect (h : evalStage .execute s = .next t) : ∃ e hi' pc' ks,
    t = ({ s with stage := .execute, latchE := e, hi := hi', pc := pc' } : State).report ks ∧
    (hi' = s.hi ∨ ∃ r d a b, s.latchD = some r ∧ r.opcode = .known (.div d a b)) ∧
    (pc' = s.pc ∨ ∃ r i, s.latchD = some r ∧ r.opcode = .known i ∧ i.isBranch = true ∧ pc' = branchPc r) := by
  rw [evalStage_execute] at h
  split at h
  · next i hi =>
    obtain ⟨e, hi', pc', ks, rfl, high, branch, -⟩ := executePart_next h
    refine ⟨e, hi', pc', ks, rfl, high.imp_right ?_, branch.imp_right ?_⟩
    · rintro ⟨d, a, b, r, rfl, hD, -⟩
      replace hD : s.latchD = some r := hD
      exact ⟨r, d, a, b, hD, latchInstr_some.mp (hD ▸ hi)⟩
    · rintro ⟨r, hb, hD, hpc⟩
      replace hD : s.latchD = some r := hD
      exact ⟨r, i, hD, latchInstr_some.mp (hD ▸ hi), hb, hpc⟩
  · cases h
    exact ⟨_, _, _, [], (State.report_nil _).symm, .inl rfl, .inl rfl⟩

/-! ## A whole cycle -/

theorem State.lineAtPc_eq_some {l : Line} :
    s.lineAtPc = some l ↔ 0 ≤ s.pc ∧ s.prog[s.pc.toNat]? = some l := by
  unfold State.lineAtPc
  split <;> simp_all

theorem State.lineAtPc_eq_none : s.lineAtPc = none ↔ s.pc < 0 ∨ (s.prog.length : Int) ≤ s.pc := by
  unfold State.lineAtPc
  split
  · rw [List.getElem?_eq_none_iff]; omega
  · simp; omega

/-- The pc before this cycle's fetch: the old pc, or what a branch in D assigned (R203). -/
def FetchAddress (s : State) (p : Int) : Prop :=
  p = s.pc ∨ ∃ r i, s.latchD = some r ∧ r.opcode = .known i ∧ i.isBranch = true ∧ p = branchPc r

/-- The fetch at line address `p` of the program of `s` has left `t` (R132). -/
def FetchedAt (s t : State) (p : Int) : Prop :=
  ({ s with pc := p }.lineAtPc = none ∧ t.latchF = none ∧ t.currentLine = none) ∨
  ∃ l, { s with pc := p }.lineAtPc = some l ∧ t.currentLine = some p ∧
    t.latchF = if l.isBlank then none else some { address := p, raw := l }

/-- What a whole cycle from `s` to `t` changes outside the latches D, E, M and the report lists. -/
structure CycleEffect (s t : State) : Prop where
  config : t.config = s.config
  prog : t.prog = s.prog
  baselineRegs : t.baselineRegs = s.baselineRegs
  baselineMem : t.baselineMem = s.baselineMem
  regs : t.regs = s.regs ∨ ∃ r i, s.latchM = some r ∧ r.opcode = .known i ∧ i.writesBack = true ∧
    t.regs = (s.writeReg r.rd r.result).regs
  mem : t.mem = s.mem ∨ ∃ r x off b, s.latchE = some r ∧ r.opcode = .known (.sw x off b) ∧
    t.mem = s.storeWord r.memoryAddress r.memoryValue
  hi : t.hi = s.hi ∨ ∃ r d a b, s.latchD = some r ∧ r.opcode = .known (.div d a b)
  cycles : t.cycles = s.cycles + 1
  runState : t.runState = s.runState
  fetch : ∃ p, t.pc = p + 1 ∧ FetchAddress s p ∧ FetchedAt s t p

/-- IF writes F, currentLine and the pc from the line at the pc (R132). -/
theorem evalStage_fetch_effect (h : evalStage .fetch s = .next t) : ∃ f line,
    t = { s with stage := .fetch, latchF := f, currentLine := line, pc := s.pc + 1 } ∧ FetchedAt s t s.pc := by
  obtain ⟨f, line, e, fetched⟩ := fetchLine_eq { s with stage := .fetch }
  rw [evalStage_fetch, e] at h
  cases h
  refine ⟨f, line, rfl, ?_⟩
  obtain ⟨hl, hf, hline⟩ | ⟨l, hl, hline, hf⟩ := fetched
  · exact .inl ⟨hl, hf, hline⟩
  · exact .inr ⟨l, hl, hline, hf⟩

/-- Each field of the effect comes from the one stage that writes it. -/
theorem evalCycle_effect {now : List Report} (h : evalCycle { s with reports := now } = .next t) : CycleEffect s t := by
  obtain ⟨s₂, s₃, s₄, s₅, h₂, h₃, h₄, h₅, rfl⟩ := evalCycle_next h
  have regs := writeBackState_regs { s with reports := now, stage := .writeBack }
  rw [writeBackState_eq] at h₂
  obtain ⟨m, mem', ks₂, rfl, mem⟩ := evalStage_memory_effect h₂
  obtain ⟨e, hi', pc', ks₃, rfl, hi, branch⟩ := evalStage_execute_effect h₃
  obtain ⟨d, ks₄, rfl, -⟩ := evalStage_decode_next h₄
  obtain ⟨f, line, rfl, fetched⟩ := evalStage_fetch_effect h₅
  have port := State.writeReg_regs_congr { s with reports := now, stage := .writeBack } s rfl
  simp only [port] at regs
  exact {
    config := rfl, prog := rfl, baselineRegs := rfl, baselineMem := rfl, cycles := rfl, runState := rfl
    regs, mem, hi
    fetch := ⟨pc', rfl, branch, fetched⟩ }

/-- A step that answers leaves everything but the pipeline as it was, or is a cycle. -/
theorem step_effect (h : step s = .next t) :
    (t.config = s.config ∧ t.prog = s.prog ∧ t.baselineRegs = s.baselineRegs ∧ t.baselineMem = s.baselineMem ∧
      t.regs = s.regs ∧ t.mem = s.mem ∧ t.hi = s.hi) ∨
    CycleEffect s t := by
  by_cases halted : s.runState = .halted
  · rw [step_halted halted] at h
    cases h
    exact .inl ⟨rfl, rfl, rfl, rfl, rfl, rfl, rfl⟩
  · cases test : s.haltTest with
    | true =>
      rw [step_halting halted test] at h
      cases h
      exact .inl ⟨rfl, rfl, rfl, rfl, rfl, rfl, rfl⟩
    | false =>
      rw [step_running halted test] at h
      exact .inr (evalCycle_effect h)

/-- A byte that a word store changes is one of the four at a valid address (R56, R58). -/
theorem State.storeWord_changes {x : Int} {w : Word} {a : Nat}
    (h : Memory.byteAt (s.storeWord x w) a ≠ s.mem.byteAt a) :
    0 ≤ x ∧ x + 4 ≤ s.config.memBytes ∧ x ≤ a ∧ (a : Int) < x + 4 := by
  have inside : ¬ ((a : Int) < x ∨ x + 4 ≤ a) := fun out => h (s.byteAt_storeWord_outside x w a out)
  obtain ⟨-, e⟩ | ⟨-, h0, hsize, -⟩ := s.storeWord_cases x w
  · exact absurd (by rw [e]) h
  · omega

end Sys2Proof.Machine

namespace Sys2Proof.Claims

open Sys2Proof.Machine

/-- Settles O20: the fetch of the cycle's effect, at the address it gives. -/
theorem cycleCounterPcAndFetch : Obligations.CycleCounterPcAndFetch := by
  rintro s t ⟨running, test⟩ h
  rw [step_running running test] at h
  have effect := evalCycle_effect h
  obtain ⟨p, hpc, address, fetched⟩ := effect.fetch
  refine ⟨effect.cycles, effect.runState, p, hpc, address, ?_⟩
  obtain ⟨hl, hF, hline⟩ | ⟨l, hl, hline, hF⟩ := fetched
  · have outside : p < 0 ∨ (s.prog.length : Int) ≤ p := State.lineAtPc_eq_none.mp hl
    refine ⟨?_, fun l h0 hl' => ?_, fun _ => hF⟩
    · rw [hline, if_neg (by omega)]
    · obtain ⟨hlt, -⟩ := List.getElem?_eq_some_iff.mp hl'
      omega
  · obtain ⟨h0, hl⟩ : 0 ≤ p ∧ s.prog[p.toNat]? = some l := State.lineAtPc_eq_some.mp hl
    obtain ⟨hlt, -⟩ := List.getElem?_eq_some_iff.mp hl
    refine ⟨?_, fun l' _ hl' => ?_, fun outside => by omega⟩
    · rw [hline, if_pos (by omega)]
    · obtain rfl : l = l' := Option.some.inj (hl.symm.trans hl')
      exact hF

/-- Settles O21: the laws of the two ports, index 0, 32 and more, and between. -/
theorem registerPorts : Obligations.RegisterPorts := by
  intro s k
  refine ⟨?_, fun h => ?_, fun ⟨h0, h⟩ => ?_, fun _ => rfl⟩
  · rintro rfl
    exact ⟨s.readReg_zero, registerReports_of_lt (by decide), s.writeReg_zero⟩
  · exact ⟨s.readReg_of_ge h, registerReports_of_ge h, s.writeReg_of_ge h⟩
  · have h0 := Nat.ne_of_gt h0
    refine ⟨s.readReg_of_lt h0 h, registerReports_of_lt h, fun v => ⟨s.readReg_writeReg_self h0 h v, ?_, ?_⟩⟩
    · exact fun j hj => s.readReg_writeReg_of_ne hj v
    · rw [s.writeReg_of_lt h0 h]

/-- Settles O40: write-back of the write-back set is one write through the port; no other effect touches registers. -/
theorem registerFrame : Obligations.RegisterFrame := by
  intro i s t h
  cases exec_effect h with
  | writeBackRd r stage latch set =>
    exact ⟨by simp, s.writeReg_regs_zero _ _, fun other => absurd stage other,
      fun k hk => s.readReg_writeReg_of_ne (hk r stage latch set) _⟩
  | writeBackNone | memory | execute | decode | fetch => exact ⟨rfl, rfl, fun _ => rfl, fun _ _ => rfl⟩

/-- Settles O42: each effect writes its own latch, EX may write HI and the pc, IF writes the pc. -/
theorem controlFrame : Obligations.ControlFrame := by
  intro i s t h
  cases exec_effect h with
  | writeBackNone stage => simp [stage]
  | writeBackRd r stage => simp [stage]
  | memory m mem' ks stage => simp [stage]
  | execute e hi' pc' ks stage high branch =>
    have high : hi' ≠ s.hi → ∃ d a b, i = .div d a b := high.resolve_left
    have branch : pc' ≠ s.pc → i.isBranch = true := branch.resolve_left
    simpa [stage] using ⟨high, branch⟩
  | decode d ks stage => simp [stage]
  | fetch f line stage => simp [stage]

/-- Settles O43: the effect of a cycle, and what one register write and one word store can change. -/
theorem cycleFrame : Obligations.CycleFrame := by
  intro s t h
  obtain ⟨config, prog, baselineRegs, baselineMem, regs, mem, hi⟩ | effect := step_effect h
  · exact ⟨config, prog, baselineRegs, baselineMem, fun k hk => absurd (State.readReg_congr regs k) hk,
      fun a ha => absurd (by rw [mem]) ha, fun changed => absurd hi changed⟩
  · refine ⟨effect.config, effect.prog, effect.baselineRegs, effect.baselineMem, fun k hk => ?_, fun a ha => ?_,
      effect.hi.resolve_left⟩
    · obtain same | ⟨r, i, latch, hop, set, regs⟩ := effect.regs
      · exact absurd (State.readReg_congr same k) hk
      · have written := State.readReg_congr regs k
        rw [written] at hk ⊢
        obtain ⟨hrd, hresult⟩ := State.eq_of_readReg_writeReg_ne hk
        exact ⟨r, i, latch, hop, set, hrd, hresult⟩
    · obtain same | ⟨r, x, off, b, latch, hop, mem⟩ := effect.mem
      · exact absurd (by rw [same]) ha
      · rw [mem] at ha
        exact ⟨r, x, off, b, latch, hop, State.storeWord_changes ha⟩

end Sys2Proof.Claims
end

section
/-! PROOF. Past reports, the halt cause and the kind of running state influence nothing: every part of a step that is
run on a state without these labels gives, but for the labels, what it gives on the state with them. -/

namespace Sys2Proof.Machine

open Sys2Proof.Claims

/-- The state without its labels: no sticky list, no halt cause, one run state for all. -/
def unlabel (s : State) : State := { s with runState := .running, haltCause := none, reportLog := [] }

/-- The answer without the labels of its next state. -/
def Result.unlabelled (r : Result) : Result := r.andThen fun s => .next (unlabel s)

/-- Labels influence neither the kind of the answer nor anything but the labels of the next state. -/
def IgnoresLabels (f : State → Result) : Prop := ∀ s, (f (unlabel s)).unlabelled = (f s).unlabelled

section Unlabel

variable {s t : State}

/-- Two states are equal without labels when they are the same core with the same reports. -/
theorem unlabel_eq_iff : unlabel s = unlabel t ↔ SameCore s t ∧ s.reports = t.reports := by
  cases s
  cases t
  simp only [unlabel, SameCore, State.mk.injEq, true_and, and_true]
  tauto

theorem Result.unlabelled_eq_next {r : Result} : r.unlabelled = .next t ↔ ∃ s, r = .next s ∧ unlabel s = t := by
  simp [Result.unlabelled, Result.andThen_eq_next]

theorem Result.unlabelled_eq_fault {r : Result} {e : Fault} : r.unlabelled = .fault e ↔ r = .fault e := by
  cases r <;> simp [Result.unlabelled]

theorem Result.unlabelled_eq_refused {r : Result} {e : Refusal} : r.unlabelled = .refused e ↔ r = .refused e := by
  cases r <;> simp [Result.unlabelled]

theorem Result.unlabelled_ite {c : Prop} [Decidable c] {a b a' b' : Result} (ha : a.unlabelled = a'.unlabelled)
    (hb : b.unlabelled = b'.unlabelled) : (if c then a else b).unlabelled = (if c then a' else b').unlabelled := by
  by_cases h : c
  · rwa [if_pos h, if_pos h]
  · rwa [if_neg h, if_neg h]

theorem IgnoresLabels.congr {f : State → Result} (hf : IgnoresLabels f) (h : unlabel s = unlabel t) :
    (f s).unlabelled = (f t).unlabelled := by
  rw [← hf s, h, hf t]

/-- Parts that ignore labels do so in sequence. -/
theorem IgnoresLabels.andThen {f g : State → Result} (hf : IgnoresLabels f) (hg : IgnoresLabels g) :
    IgnoresLabels fun s => (f s).andThen g := by
  intro s
  have h := hf s
  dsimp only
  cases hu : f (unlabel s) <;> cases hs : f s <;> rw [hu, hs] at h
  case next.next u v =>
    exact hg.congr (Host.Outcome.next.inj h)
  all_goals cases h
  all_goals rfl

end Unlabel

/-! ## The parts of the stages -/

@[simp] theorem unlabel_latchF (s : State) : (unlabel s).latchF = s.latchF := rfl
@[simp] theorem unlabel_latchD (s : State) : (unlabel s).latchD = s.latchD := rfl
@[simp] theorem unlabel_latchE (s : State) : (unlabel s).latchE = s.latchE := rfl
@[simp] theorem unlabel_latchM (s : State) : (unlabel s).latchM = s.latchM := rfl
@[simp] theorem unlabel_lineAtPc (s : State) : (unlabel s).lineAtPc = s.lineAtPc := rfl
@[simp] theorem unlabel_config (s : State) : (unlabel s).config = s.config := rfl
@[simp] theorem unlabel_stage (s : State) : (unlabel s).stage = s.stage := rfl
@[simp] theorem unlabel_hazard (s : State) (i : Instr) : (unlabel s).hazard i = s.hazard i := rfl

theorem fetchLine_ignoresLabels : IgnoresLabels fetchLine := by
  intro s
  simp only [fetchLine, unlabel_lineAtPc]
  cases s.lineAtPc <;> rfl

theorem memoryLoad_ignoresLabels : IgnoresLabels memoryLoad := by
  intro s
  simp only [memoryLoad, unlabel_latchE]
  cases s.latchE <;> rfl

theorem memoryStore_ignoresLabels : IgnoresLabels memoryStore := by
  intro s
  simp only [memoryStore, unlabel_latchE]
  cases s.latchE <;> rfl

theorem executeResult_ignoresLabels (f : Record → Word) : IgnoresLabels (executeResult f) := by
  intro s
  simp only [executeResult, unlabel_latchD]
  cases s.latchD <;> rfl

theorem executeDiv_ignoresLabels : IgnoresLabels executeDiv := by
  intro s
  simp only [executeDiv, unlabel_latchD]
  cases s.latchD <;> rfl

theorem executeDivu_ignoresLabels : IgnoresLabels executeDivu := by
  intro s
  simp only [executeDivu, unlabel_latchD]
  cases s.latchD <;> rfl

theorem executeShift_ignoresLabels (f : Record → Word) : IgnoresLabels (executeShift f) := by
  intro s
  simp only [executeShift, unlabel_latchD, unlabel_config]
  cases s.latchD with
  | none => rfl
  | some r => exact Result.unlabelled_ite rfl rfl

theorem executeBranch_ignoresLabels (taken : Record → Bool) : IgnoresLabels (executeBranch taken) := by
  intro s
  simp only [executeBranch, unlabel_latchD, unlabel_latchF, unlabel_config]
  cases s.latchD with
  | none => rfl
  | some r => exact Result.unlabelled_ite (Result.unlabelled_ite rfl rfl) rfl

theorem decodeWith_ignoresLabels (i : Instr) (fill : Record → Record) (ks : List Report) :
    IgnoresLabels (decodeWith i fill ks) := by
  intro s
  simp only [decodeWith, unlabel_latchF, unlabel_config, unlabel_hazard]
  cases s.latchF with
  | none => rfl
  | some f => exact Result.unlabelled_ite rfl rfl

theorem decodeUnknown_ignoresLabels (m : List Char) : IgnoresLabels (decodeUnknown m) := by
  intro s
  simp only [decodeUnknown, unlabel_latchF]
  cases s.latchF <;> rfl

theorem writeReg_ignoresLabels (k : Nat) (v : Word) : IgnoresLabels fun s => .next (s.writeReg k v) := by
  intro s
  dsimp only [State.writeReg]
  by_cases h0 : k = 0
  · rw [if_pos h0, if_pos h0]
    rfl
  · by_cases h : k < 32
    · rw [if_neg h0, if_neg h0, dif_pos h, dif_pos h]
      rfl
    · rw [if_neg h0, if_neg h0, dif_neg h, dif_neg h]
      rfl

theorem writeBackResult_ignoresLabels : IgnoresLabels writeBackResult := by
  intro s
  simp only [writeBackResult, unlabel_latchM]
  cases s.latchM with
  | none => rfl
  | some r => exact writeReg_ignoresLabels r.rd r.result s

/-! ## One instruction in one stage -/

theorem memoryPart_ignoresLabels (i : Instr) : IgnoresLabels (memoryPart i) := by
  intro s
  cases i
  case lw => exact memoryLoad_ignoresLabels s
  case sw => exact memoryStore_ignoresLabels s
  all_goals rfl

theorem executePart_ignoresLabels (i : Instr) : IgnoresLabels (executePart i) := by
  intro s
  cases i
  case nop | lw | sw => rfl
  case div => exact executeDiv_ignoresLabels s
  case divu => exact executeDivu_ignoresLabels s
  case sll | srl | sllImm | srlImm => exact executeShift_ignoresLabels _ s
  case beq | bne => exact executeBranch_ignoresLabels _ s
  all_goals exact executeResult_ignoresLabels _ s

theorem exec_ignoresLabels (i : Instr) : IgnoresLabels (exec i) := by
  intro s
  cases stage : s.stage with
  | writeBack =>
    rw [exec_writeBack stage, exec_writeBack (s := unlabel s) stage]
    split
    · exact writeBackResult_ignoresLabels s
    · rfl
  | memory =>
    rw [exec_memory stage, exec_memory (s := unlabel s) stage]
    exact memoryPart_ignoresLabels i s
  | execute =>
    rw [exec_execute stage, exec_execute (s := unlabel s) stage]
    exact executePart_ignoresLabels i s
  | decode =>
    by_cases hi : i = .nop
    · rw [hi, exec_decode_nop stage, exec_decode_nop (s := unlabel s) stage]
      rfl
    · rw [exec_decode stage hi, exec_decode (s := unlabel s) stage hi]
      exact decodeWith_ignoresLabels i (decodeFill i s) (decodeReports i) s
  | fetch =>
    rw [exec_fetch stage, exec_fetch (s := unlabel s) stage]
    exact fetchLine_ignoresLabels s

theorem passUnknown_ignoresLabels (m : List Char) : IgnoresLabels (passUnknown m) := by
  intro s
  simp only [passUnknown, inStage, unlabel_stage]
  cases s.stage with
  | decode => exact decodeUnknown_ignoresLabels m s
  | fetch => exact fetchLine_ignoresLabels s
  | writeBack | memory | execute => rfl

/-! ## A step -/

theorem slotAt_unlabel (s : State) : slotAt (unlabel s) = slotAt s := by
  simp only [slotAt, unlabel_stage, unlabel_latchF, unlabel_latchD, unlabel_latchE, unlabel_latchM, unlabel_lineAtPc]

theorem evalStage_ignoresLabels (k : Stage) : IgnoresLabels (evalStage k) := by
  intro s
  have slot : slotAt { unlabel s with stage := k } = slotAt { s with stage := k } := slotAt_unlabel { s with stage := k }
  simp only [evalStage, slot]
  split
  · exact exec_ignoresLabels _ { s with stage := k }
  · exact passUnknown_ignoresLabels _ { s with stage := k }
  · split
    · exact fetchLine_ignoresLabels { s with stage := k }
    · rfl

theorem evalCycle_ignoresLabels : IgnoresLabels evalCycle :=
  (evalStage_ignoresLabels _).andThen <| (evalStage_ignoresLabels _).andThen <|
    (evalStage_ignoresLabels _).andThen <| (evalStage_ignoresLabels _).andThen <|
      (evalStage_ignoresLabels _).andThen fun _ => rfl

theorem haltTest_of_unlabel_eq {s t : State}
    (start : unlabel { s with reports := [] } = unlabel { t with reports := [] }) : s.haltTest = t.haltTest := by
  change (unlabel { s with reports := [] }).haltTest = (unlabel { t with reports := [] }).haltTest
  rw [start]

/-- A step from two states that are the same without labels and past reports, both halted or both not. -/
theorem step_unlabelled_congr {s t : State} (start : unlabel { s with reports := [] } = unlabel { t with reports := [] })
    (halted : s.runState = .halted ↔ t.runState = .halted) :
    Result.unlabelled (step s) = Result.unlabelled (step t) := by
  by_cases hs : s.runState = .halted
  · rw [step_halted hs, step_halted (halted.mp hs)]
    exact congrArg Host.Outcome.next start
  · have ht := mt halted.mpr hs
    have test : s.haltTest = t.haltTest := haltTest_of_unlabel_eq start
    cases testS : s.haltTest with
    | true =>
      rw [step_halting hs testS, step_halting ht (test.symm.trans testS)]
      exact congrArg (fun u => Host.Outcome.next (unlabel u.haltTransition)) start
    | false =>
      rw [step_running hs testS, step_running ht (test.symm.trans testS)]
      exact evalCycle_ignoresLabels.congr start

/-- A step leaves the core halted when it was, or when the halt test succeeds (R133, R136). -/
theorem step_halted_iff {s t : State} (h : step s = .next t) :
    t.runState = .halted ↔ s.runState = .halted ∨ s.haltTest = true := by
  by_cases hs : s.runState = .halted
  · rw [step_halted hs] at h
    cases h
    simp [hs]
  · cases test : s.haltTest with
    | true =>
      rw [step_halting hs test] at h
      cases h
      simp
    | false =>
      rw [step_running hs test] at h
      simp [(evalCycle_effect h).runState, hs]

end Sys2Proof.Machine

namespace Sys2Proof.Claims

open Sys2Proof.Machine

/-- Settles O52: without labels and past reports the two states are the same, and so are their steps. -/
theorem reportsAndRunStateDoNotInfluence : Obligations.ReportsAndRunStateDoNotInfluence := by
  intro s t same halted
  have start : unlabel { s with reports := [] } = unlabel { t with reports := [] } :=
    congrArg (fun u => unlabel { u with reports := [] }) same
  have alike := step_unlabelled_congr start halted
  refine ⟨fun s' hs => ?_, fun e hs => ?_, fun e hs => ?_⟩
  · rw [hs] at alike
    obtain ⟨t', ht, unlabelled⟩ := Result.unlabelled_eq_next.mp alike.symm
    obtain ⟨core, reports⟩ := unlabel_eq_iff.mp unlabelled.symm
    have test : s.haltTest = t.haltTest := haltTest_of_unlabel_eq start
    exact ⟨t', ht, core, reports, by rw [step_halted_iff hs, step_halted_iff ht, halted, test]⟩
  · exact Result.unlabelled_eq_fault.mp (alike.symm.trans (Result.unlabelled_eq_fault.mpr hs))
  · exact Result.unlabelled_eq_refused.mp (alike.symm.trans (Result.unlabelled_eq_refused.mpr hs))

end Sys2Proof.Claims
end

section
/-! PROOF. The power-on state, and the baselines: no step writes them, `snapshot()` does and `restore()` reads them. -/

namespace Sys2Proof.Machine

/-! ## The power-on state -/

/-- Registers that are all 0 read as 0. -/
theorem State.readReg_of_regs_zero {s : State} (h : s.regs = Vector.replicate 32 0) (k : Nat) : s.readReg k = 0 := by
  simp [State.readReg, h]

/-- Power-on is idle, with empty latches and memories and everything at 0 (R41, R269). -/
theorem inv_reset : Inv State.reset where
  config_wf := by decide
  reg_zero := by decide
  mem_wf := rfl
  baseline_wf := rfl
  stage_start := rfl
  cycles_le := Nat.zero_le _
  pc_low := by decide
  pc_high := by decide
  current_line := by simp [State.reset]
  halted_clean := by simp [State.reset]
  halt_cause := by simp [State.reset]
  fetched_not_blank := by simp [State.reset]
  recordD := by simp [State.reset]
  recordE := by simp [State.reset]
  recordM := by simp [State.reset]

/-! ## The baselines -/

/-- A step writes neither baseline (R39). -/
theorem step_baselines {s t : State} (h : step s = .next t) :
    t.baselineRegs = s.baselineRegs ∧ t.baselineMem = s.baselineMem := by
  obtain ⟨-, -, regs, mem, -⟩ | effect := step_effect h
  · exact ⟨regs, mem⟩
  · exact ⟨effect.baselineRegs, effect.baselineMem⟩

/-- Nor do any number of steps. -/
theorem advanceCycles_baselines {n : Nat} {s t : State} (h : advanceCycles n s = .next t) :
    t.baselineRegs = s.baselineRegs ∧ t.baselineMem = s.baselineMem := by
  induction n generalizing s with
  | zero =>
    cases h
    exact ⟨rfl, rfl⟩
  | succ n ih =>
    rw [advanceCycles_succ] at h
    obtain ⟨u, hu, h⟩ := Result.andThen_eq_next.mp h
    obtain ⟨regs, mem⟩ := ih h
    obtain ⟨regs', mem'⟩ := step_baselines hu
    exact ⟨regs.trans regs', mem.trans mem'⟩

/-- `restore()` gives the read port what the baseline holds; it zeroes register 0, which reads 0 anyway (R22, R268). -/
theorem State.readReg_restore {s t : State} (h : t.baselineRegs = s.regs) (k : Nat) :
    t.restore.readReg k = s.readReg k := by
  by_cases h0 : k = 0
  · rw [h0, State.readReg_zero, State.readReg_zero]
  · by_cases hk : k < 32
    · simp [State.readReg_of_lt _ h0 hk, h, Vector.getElem_set_ne _ _ (Ne.symm h0)]
    · rw [State.readReg_of_ge _ (Nat.le_of_not_lt hk), State.readReg_of_ge _ (Nat.le_of_not_lt hk)]

end Sys2Proof.Machine

namespace Sys2Proof.Claims

open Sys2Proof.Machine

/-- Settles O9: the values are those `State.reset` writes out. -/
theorem resetHoldsItsValuesAndInvariant : Obligations.ResetHoldsItsValuesAndInvariant :=
  ⟨inv_reset, State.readReg_of_regs_zero rfl, Memory.byteAt_nil, rfl, rfl, rfl, rfl, rfl, rfl, rfl,
    fun _ h => Vector.getElem_replicate h, Memory.byteAt_nil⟩

/-- Settles O55: cycles and `reset()` keep the baselines that `snapshot()` wrote. -/
theorem snapshotThenRestore : Obligations.SnapshotThenRestore := by
  intro s t n h
  obtain ⟨regs, mem⟩ := advanceCycles_baselines h
  exact ⟨⟨State.readReg_restore regs, mem, State.readReg_restore (t := t.resetOp) regs, mem⟩, rfl, by simp, rfl⟩

end Sys2Proof.Claims
end

section
/-! PROOF. Memory: the bytes and bits of a word read and of a word stored, the bounds check, and from these the word
accesses, the word-bank view, the list form of memory, and what instructions and host accesses leave unchanged. -/

namespace Sys2Proof.Machine

namespace Memory

/-! ## The canonical form -/

/-- A canonical memory is canonical for every greater size. -/
theorem wfFrom_of_size_le {size size' : Nat} (h : size ≤ size') :
    ∀ {lo : Nat} {m : Memory}, wfFrom size lo m = true → wfFrom size' lo m = true
  | _, [], _ => rfl
  | lo, (k, x) :: m, hw => by
    simp only [wfFrom, Bool.and_eq_true, decide_eq_true_eq] at hw ⊢
    obtain ⟨⟨⟨hlo, hk⟩, hx⟩, hm⟩ := hw
    exact ⟨⟨⟨hlo, by omega⟩, hx⟩, wfFrom_of_size_le h hm⟩

/-- In a canonical list the first byte listed is not 0, and the rest lists bytes above it only. -/
theorem wfFrom_cons {size lo k : Nat} {x : Byte} {m : Memory} (h : wfFrom size lo ((k, x) :: m) = true) :
    x ≠ 0 ∧ wfFrom size (k + 1) m = true := by
  simp only [wfFrom, Bool.and_eq_true, bne_iff_ne] at h
  obtain ⟨⟨-, hx⟩, hm⟩ := h
  exact ⟨hx, hm⟩

/-- The first address listed is the least whose byte is not 0: no list with the same bytes starts above it. -/
theorem first_le_of_byteAt_eq {size lo lo' k k' : Nat} {x x' : Byte} {m m' : Memory}
    (hw : wfFrom size lo ((k, x) :: m) = true) (hw' : wfFrom size lo' ((k', x') :: m') = true)
    (h : ∀ a, byteAt ((k, x) :: m) a = byteAt ((k', x') :: m') a) : k' ≤ k := by
  obtain ⟨hx, -⟩ := wfFrom_cons hw
  obtain ⟨-, hm'⟩ := wfFrom_cons hw'
  by_contra hlt
  have hk := h k
  rw [byteAt_cons, byteAt_cons, if_pos rfl, if_neg (by omega), byteAt_of_lt hm' (by omega)] at hk
  exact hx hk

/-- A list with an entry has a byte that is not 0, so it has other bytes than the empty list. -/
theorem exists_byteAt_ne_zero {size lo k : Nat} {x : Byte} {m : Memory} (hw : wfFrom size lo ((k, x) :: m) = true) :
    ∃ a, byteAt ((k, x) :: m) a ≠ 0 :=
  ⟨k, by rw [byteAt_cons, if_pos rfl]; exact (wfFrom_cons hw).1⟩

/-- A canonical list is determined by its bytes. -/
theorem eq_of_byteAt_eq {size : Nat} : ∀ {lo lo' : Nat} {m m' : Memory}, wfFrom size lo m = true →
    wfFrom size lo' m' = true → (∀ a, byteAt m a = byteAt m' a) → m = m'
  | _, _, [], [], _, _, _ => rfl
  | _, _, [], _ :: _, _, hw', h => by
    obtain ⟨a, ha⟩ := exists_byteAt_ne_zero hw'
    exact absurd (h a).symm ha
  | _, _, _ :: _, [], hw, _, h => by
    obtain ⟨a, ha⟩ := exists_byteAt_ne_zero hw
    exact absurd (h a) ha
  | _, _, (k, x) :: m, (k', x') :: m', hw, hw', h => by
    obtain rfl : k = k' := Nat.le_antisymm (first_le_of_byteAt_eq hw' hw fun a => (h a).symm)
      (first_le_of_byteAt_eq hw hw' h)
    obtain rfl : x = x' := by simpa [byteAt_cons] using h k
    obtain ⟨-, hm⟩ := wfFrom_cons hw
    obtain ⟨-, hm'⟩ := wfFrom_cons hw'
    have tails : ∀ a, byteAt m a = byteAt m' a := by
      intro a
      by_cases ha : k = a
      · rw [byteAt_of_lt hm (by omega), byteAt_of_lt hm' (by omega)]
      · simpa [byteAt_cons, ha] using h a
    rw [eq_of_byteAt_eq hm hm' tails]

/-! ## The bytes of a stored word -/

/-- After a word store, the four bytes are those of the word, low byte first; every other byte is as before (R58). -/
theorem byteAt_setWord {size : Nat} {m : Memory} (hm : m.wf size = true) (a b : Nat) (w : Word) :
    (m.setWord a w).byteAt b = if a ≤ b ∧ b < a + 4 then w.extractLsb' (8 * (b - a)) 8 else m.byteAt b := by
  by_cases inside : a ≤ b ∧ b < a + 4
  · have h0 : m.wf (max size (a + 4)) = true := wfFrom_of_size_le (by omega) hm
    have h1 := wf_setByte (a := a) (w.extractLsb' 0 8) (by omega) h0
    have h2 := wf_setByte (a := a + 1) (w.extractLsb' 8 8) (by omega) h1
    have h3 := wf_setByte (a := a + 2) (w.extractLsb' 16 8) (by omega) h2
    rw [if_pos inside, setWord, byteAt_setByte _ h3, byteAt_setByte _ h2, byteAt_setByte _ h1, byteAt_setByte _ h0]
    obtain rfl | rfl | rfl | rfl : b = a ∨ b = a + 1 ∨ b = a + 2 ∨ b = a + 3 := by omega
    all_goals simp
  · rw [if_neg inside, byteAt_setWord_outside m w (by omega)]

/-! ## The bits of memory

Numbered through all bytes, the bits of memory are what a word read at any address takes 32 of, and what a word store
replaces 32 of. In these terms every statement about words is one about numbers. -/

/-- Bit `n` of memory: bit `n % 8` of byte `n / 8`. -/
def bitAt (m : Memory) (n : Nat) : Bool := (m.byteAt (n / 8)).getLsbD (n % 8)

theorem getLsbD_byteAt (m : Memory) {b i n : Nat} (hi : i < 8) (hn : n = 8 * b + i) :
    (m.byteAt b).getLsbD i = m.bitAt n := by
  rw [bitAt, show n / 8 = b by omega, show n % 8 = i by omega]

/-- A word read takes the 32 bits from its address on (R53). -/
theorem getLsbD_wordAt (m : Memory) (a : Nat) {i : Nat} (hi : i < 32) :
    (m.wordAt a).getLsbD i = m.bitAt (8 * a + i) := by
  simp only [wordAt, BitVec.getLsbD_append]
  split_ifs
  all_goals exact m.getLsbD_byteAt (by omega) (by omega)

/-- A word store replaces the 32 bits from its address on (R53). -/
theorem bitAt_setWord {size : Nat} {m : Memory} (hm : m.wf size = true) (a n : Nat) (w : Word) :
    (m.setWord a w).bitAt n = if 8 * a ≤ n ∧ n < 8 * a + 32 then w.getLsbD (n - 8 * a) else m.bitAt n := by
  rw [bitAt, byteAt_setWord hm]
  by_cases inside : 8 * a ≤ n ∧ n < 8 * a + 32
  · rw [if_pos inside, if_pos (by omega), BitVec.getLsbD_extractLsb', decide_eq_true (by omega), Bool.true_and]
    congr 1
    omega
  · rw [if_neg inside, if_neg (by omega), bitAt]

/-- Byte `k` of a word read is the byte at the address plus `k` (R57). -/
theorem extractLsb'_wordAt (m : Memory) (a : Nat) {k : Nat} (hk : k < 4) :
    (m.wordAt a).extractLsb' (8 * k) 8 = m.byteAt (a + k) := by
  refine BitVec.eq_of_getLsbD_eq fun i hi => ?_
  rw [BitVec.getLsbD_extractLsb', decide_eq_true hi, Bool.true_and, getLsbD_wordAt _ _ (by omega)]
  exact (m.getLsbD_byteAt hi (by omega)).symm

/-- A word stored is read back (R59). -/
theorem wordAt_setWord {size : Nat} {m : Memory} (hm : m.wf size = true) (a : Nat) (w : Word) :
    (m.setWord a w).wordAt a = w := by
  refine BitVec.eq_of_getLsbD_eq fun i hi => ?_
  rw [getLsbD_wordAt _ _ hi, bitAt_setWord hm, if_pos (by omega), Nat.add_sub_cancel_left]

end Memory

/-! ## The bounds check and the word accesses -/

variable {a : Int}

theorem boundsReport_outOfBounds {n : Nat} (h : a < 0 ∨ (n : Int) ≤ a) : boundsReport n a = some .memoryOutOfBounds :=
  if_pos h

theorem boundsReport_oversize {n : Nat} (h0 : 0 ≤ a) (h : a < n) (h4 : (n : Int) < a + 4) :
    boundsReport n a = some .unalignedOversizeAccess := by
  rw [boundsReport, if_neg (by omega), if_pos h4]

/-- A failing access is one that starts below 0 or ends past the memory (R56). -/
theorem boundsReport_eq_some {n : Nat} (h : a < 0 ∨ (n : Int) < a + 4) : ∃ e, boundsReport n a = some e := by
  rw [← Option.ne_none_iff_exists', Ne, boundsReport_eq_none]
  omega

theorem State.readWord_of_invalid (s : State) (h : a < 0 ∨ (s.config.memBytes : Int) < a + 4) : s.readWord a = 0 := by
  obtain ⟨e, he⟩ := boundsReport_eq_some h
  rw [State.readWord, he]

theorem State.readWord_of_valid (s : State) (h0 : 0 ≤ a) (h4 : a + 4 ≤ s.config.memBytes) :
    s.readWord a = s.mem.wordAt a.toNat := by
  rw [State.readWord, (boundsReport_eq_none _ _).mpr ⟨h0, h4⟩]

theorem State.storeWord_of_invalid (s : State) (h : a < 0 ∨ (s.config.memBytes : Int) < a + 4) (w : Word) :
    s.storeWord a w = s.mem := by
  obtain ⟨e, he⟩ := boundsReport_eq_some h
  rw [State.storeWord, he]

theorem State.storeWord_of_valid (s : State) (h0 : 0 ≤ a) (h4 : a + 4 ≤ s.config.memBytes) (w : Word) :
    s.storeWord a w = s.mem.setWord a.toNat w := by
  rw [State.storeWord, (boundsReport_eq_none _ _).mpr ⟨h0, h4⟩]

/-! ## The host accesses -/

@[simp] theorem State.hostWriteWord_mem (s : State) (a v : Int) :
    (s.hostWriteWord a v).mem = s.storeWord a (BitVec.ofInt 32 v) := rfl

/-! ## The memory of one instruction in one stage -/

/-- Memory changes only by SW in its memory stage, and then by the one word store of its record (R124). -/
theorem exec_mem {i : Instr} {s t : State} (h : exec i s = .next t) : t.mem = s.mem ∨
    ∃ r x off b, s.stage = .memory ∧ s.latchE = some r ∧ i = .sw x off b ∧
      t.mem = s.storeWord r.memoryAddress r.memoryValue := by
  by_cases stage : s.stage = .memory
  · obtain ⟨m, mem', ks, e, hmem, -⟩ := memoryPart_eq i s
    rw [exec_memory stage, e] at h
    cases h
    refine hmem.imp_right ?_
    rintro ⟨x, off, b, r, hi, latch, stored⟩
    exact ⟨r, x, off, b, stage, latch, hi, stored⟩
  · left
    cases exec_effect h with
    | writeBackNone | execute | decode | fetch => rfl
    | writeBackRd => exact s.writeReg_mem _ _
    | memory _ _ _ here => exact absurd here stage

/-- No stage of any instruction writes the memory baseline or the Program Store (R51). -/
theorem exec_baselineMem_prog {i : Instr} {s t : State} (h : exec i s = .next t) :
    t.baselineMem = s.baselineMem ∧ t.prog = s.prog := by
  cases exec_effect h with
  | writeBackNone | memory | execute | decode | fetch => exact ⟨rfl, rfl⟩
  | writeBackRd => simp

end Sys2Proof.Machine

namespace Sys2Proof.Claims

open Sys2Proof.Machine

/-! ## The word banks -/

theorem getLsbD_bank (m : Memory) (j : Nat) {i : Nat} (hi : i < 32) :
    (bank m j).getLsbD i = m.bitAt (32 * j + i) := by
  rw [bank, Memory.getLsbD_wordAt _ _ hi]
  congr 1
  omega

/-- The mask of R54 has the low `8k` bits. -/
theorem getLsbD_lowMask (k : Nat) {i : Nat} (hi : i < 32) : (lowMask k).getLsbD i = decide (i < 8 * k) := by
  rw [lowMask, BitVec.getLsbD_ofNat, decide_eq_true hi, Bool.true_and, Nat.testBit_two_pow_sub_one]

/-- A word across two banks is the high bytes of the first and the low bytes of the second (R54). -/
theorem wordAt_eq_pack (m : Memory) (j : Nat) {k : Nat} (hk : k ≤ 3) :
    m.wordAt (4 * j + k) = (bank m j >>> (8 * k)) ||| ((bank m (j + 1) &&& lowMask k) <<< (32 - 8 * k)) := by
  refine BitVec.eq_of_getLsbD_eq fun i hi => ?_
  rw [Memory.getLsbD_wordAt _ _ hi, BitVec.getLsbD_or, BitVec.getLsbD_ushiftRight, BitVec.getLsbD_shiftLeft,
    BitVec.getLsbD_and, getLsbD_lowMask _ (by omega)]
  by_cases first : i < 32 - 8 * k
  · rw [getLsbD_bank _ _ (by omega), show 32 * j + (8 * k + i) = 8 * (4 * j + k) + i by omega]
    simp [first]
  · rw [BitVec.getLsbD_of_ge _ _ (by omega), getLsbD_bank _ _ (by omega),
      show 32 * (j + 1) + (i - (32 - 8 * k)) = 8 * (4 * j + k) + i by omega,
      decide_eq_true (by omega : i - (32 - 8 * k) < 8 * k)]
    simp [first, hi]

section Store

variable {size : Nat} {m : Memory} (hm : m.wf size = true)
include hm

/-- A word store puts its low bytes above the bytes that the first bank keeps (R54). -/
theorem bank_setWord_first (j : Nat) {k : Nat} (hk : k ≤ 3) (v : Word) :
    bank (m.setWord (4 * j + k) v) j = (bank m j &&& lowMask k) ||| (v <<< (8 * k)) := by
  refine BitVec.eq_of_getLsbD_eq fun i hi => ?_
  rw [getLsbD_bank _ _ hi, Memory.bitAt_setWord hm, BitVec.getLsbD_or, BitVec.getLsbD_and, getLsbD_bank _ _ hi,
    getLsbD_lowMask _ hi, BitVec.getLsbD_shiftLeft]
  by_cases kept : i < 8 * k
  · rw [if_neg (by omega)]
    simp [kept]
  · rw [if_pos (by omega), show 32 * j + i - 8 * (4 * j + k) = i - 8 * k by omega]
    simp [kept, hi]

/-- Its high bytes replace the low bytes of the second bank (R54). -/
theorem bank_setWord_second (j : Nat) {k : Nat} (hk : k ≤ 3) (v : Word) :
    bank (m.setWord (4 * j + k) v) (j + 1) = (bank m (j + 1) &&& ~~~ lowMask k) ||| (v >>> (32 - 8 * k)) := by
  refine BitVec.eq_of_getLsbD_eq fun i hi => ?_
  rw [getLsbD_bank _ _ hi, Memory.bitAt_setWord hm, BitVec.getLsbD_or, BitVec.getLsbD_and, getLsbD_bank _ _ hi,
    BitVec.getLsbD_not, getLsbD_lowMask _ hi, BitVec.getLsbD_ushiftRight]
  by_cases replaced : i < 8 * k
  · rw [if_pos (by omega), show 32 * (j + 1) + i - 8 * (4 * j + k) = 32 - 8 * k + i by omega]
    simp [replaced]
  · rw [if_neg (by omega), BitVec.getLsbD_of_ge v _ (by omega)]
    simp [replaced, hi]

/-- No other bank changes. -/
theorem bank_setWord_other (j : Nat) {j' k : Nat} (hk : k ≤ 3) (v : Word) (h : j' ≠ j) (h' : j' ≠ j + 1) :
    bank (m.setWord (4 * j + k) v) j' = bank m j' := by
  refine BitVec.eq_of_getLsbD_eq fun i hi => ?_
  rw [getLsbD_bank _ _ hi, Memory.bitAt_setWord hm, if_neg (by omega), getLsbD_bank _ _ hi]

end Store

/-! ## The statements -/

/-- Settles O22: the branches of the bounds check, as lists of reports. -/
theorem boundsCheck : Obligations.BoundsCheck := by
  intro s a
  refine ⟨fun outside => ?_, fun h0 h h4 => ?_, fun h0 h4 => ?_⟩
  · rw [State.accessReports, boundsReport_outOfBounds outside, Option.toList_some]
  · rw [State.accessReports, boundsReport_oversize h0 h h4, Option.toList_some]
  · rw [State.accessReports, (boundsReport_eq_none _ _).mpr ⟨h0, h4⟩, Option.toList_none]

/-- Settles O23: a failing access and a valid one; the bytes are those of the word read and of the word stored. -/
theorem wordReadAndWrite : Obligations.WordReadAndWrite := by
  intro s a v hm
  refine ⟨rfl, rfl, fun failing => ?_, fun h0 h4 => ⟨fun k hk => ?_, fun k hk => ?_, fun b outside => ?_⟩⟩
  · exact ⟨s.readWord_of_invalid failing, s.storeWord_of_invalid failing _⟩
  · rw [s.readWord_of_valid h0 h4, Memory.extractLsb'_wordAt _ _ hk]
  · rw [State.hostWriteWord_mem, s.storeWord_of_valid h0 h4, Memory.byteAt_setWord hm, if_pos (by omega),
      Nat.add_sub_cancel_left]
  · exact s.byteAt_storeWord_outside a _ b outside

/-- Settles O24: at a valid address both accesses are those of memory, where a word stored is read back. -/
theorem wordRoundTrip : Obligations.WordRoundTrip := by
  intro s a v hm h0 h4
  rw [(s.hostWriteWord a v).readWord_of_valid h0 h4, State.hostWriteWord_mem, s.storeWord_of_valid h0 h4,
    Memory.wordAt_setWord hm]

/-- Settles O25: the packing of a read, the unpacking of a write, and the other banks. -/
theorem wordBankAgreement : Obligations.WordBankAgreement :=
  fun _ m j _ v hm _ hk => ⟨wordAt_eq_pack m j hk, bank_setWord_first hm j hk v, bank_setWord_second hm j hk v,
    fun _ h h' => bank_setWord_other hm j hk v h h'⟩

/-- Settles O26: the lists agree from their first entries on. -/
theorem canonicalMemoryIsExtensional : Obligations.CanonicalMemoryIsExtensional :=
  fun _ _ _ hm hm' h => Memory.eq_of_byteAt_eq hm hm' h

/-- Settles O41: the one store of SW changes no byte outside its four. -/
theorem memoryFrame : Obligations.MemoryFrame := by
  intro i s t h
  obtain ⟨baseline, prog⟩ := exec_baselineMem_prog h
  refine ⟨baseline, prog, fun a outside => ?_⟩
  obtain same | ⟨r, x, off, b, stage, latch, hi, stored⟩ := exec_mem h
  · rw [same]
  · rw [stored, s.byteAt_storeWord_outside _ _ a (outside r x off b stage latch hi)]

/-- Settles O57: the fields of the reports and of the write port; register 0 reads 0 in every state. -/
theorem hostAccess : Obligations.HostAccess := by
  intro s i a v
  have unchanged : ∀ t, (t = (s.hostReadRegister i).2 ∨ t = (s.hostReadWord a).2 ∨ t = s.hostWriteRegister i v ∨
      t = s.hostWriteWord a v) →
      t = { s with regs := t.regs, mem := t.mem, reports := t.reports, reportLog := t.reportLog } := by
    rintro t (rfl | rfl | rfl | rfl)
    · rfl
    · rfl
    · rw [State.hostWriteRegister, s.beginOp.writeReg_mem]
      exact s.beginOp.writeReg_eq i _
    · rfl
  exact ⟨rfl, rfl, rfl, rfl, s.beginOp.writeReg_reports i _, rfl, (s.hostWriteRegister 0 v).readReg_zero, unchanged,
    rfl, rfl, rfl, rfl, s.beginOp.writeReg_mem i _, rfl⟩

end Sys2Proof.Claims
end

section
/-! PROOF. The binary image (30_encoding.md R98). The 27 rows are given once as operand formats, and the decoder and the
rows of the opcode table are read off that list; a statement about images is then one about six formats. -/

namespace Sys2Proof

/-! ## The fields of a word -/

theorem field_lt (w : BitVec 32) (lo n : Nat) : field w lo n < 2 ^ n := Nat.mod_lt _ (Nat.two_pow_pos n)

theorem regWf_field (w : BitVec 32) (lo : Nat) : regWf (field w lo 5) = true := (Laws.regWf_iff _).mpr (field_lt w lo 5)

theorem testBit_field (w : BitVec 32) (lo n k : Nat) :
    (field w lo n).testBit k = (decide (k < n) && w.getLsbD (lo + k)) := by
  rw [field, Nat.testBit_mod_two_pow, ← Nat.shiftRight_eq_div_pow, Nat.testBit_shiftRight, BitVec.getLsbD]

/-- A field is known by its bits. -/
theorem field_eq_iff (w : BitVec 32) (lo n : Nat) {v : Nat} (hv : v < 2 ^ n) :
    field w lo n = v ↔ ∀ k < n, w.getLsbD (lo + k) = v.testBit k := by
  constructor
  · rintro rfl k hk
    simp [testBit_field, hk]
  · intro h
    refine Nat.eq_of_testBit_eq fun k => ?_
    rw [testBit_field]
    by_cases hk : k < n
    · simp [hk, h k hk]
    · simp [hk, Nat.testBit_lt_two_pow (hv.trans_le (Nat.pow_le_pow_right (by omega) (Nat.not_lt.mp hk)))]

/-- A word is made of its four fields. -/
theorem imageWord_fields (w : BitVec 32) :
    imageWord (field w 26 6) (field w 21 5) (field w 16 5) (field w 0 16) = w := by
  apply BitVec.eq_of_toNat_eq
  have hw := w.isLt
  rw [Laws.toNat_imageWord (field_lt w 26 6) (field_lt w 21 5) (field_lt w 16 5) (field_lt w 0 16)]
  simp only [field]
  omega

@[simp] theorem toNat_imageLit (w : BitVec 32) : (imageLit w).value.toNat = field w 0 16 :=
  Nat.mod_eq_of_lt (field_lt w 0 16)

@[simp] theorem wf_imageLit (w : BitVec 32) : (imageLit w).wf = true := rfl

/-- The low half splits into the third register field and the reserved bits of format R3. -/
theorem field_low_of_reserved {w : BitVec 32} (h : field w 0 11 = 0) : field w 0 16 = field w 11 5 * 2 ^ 11 := by
  simp only [field] at *
  omega

theorem fields_of_low_zero {w : BitVec 32} (h : field w 0 21 = 0) : field w 16 5 = 0 ∧ field w 0 16 = 0 := by
  simp only [field] at *
  omega

section ImageWord

variable {op x y low : Nat} (hop : op < 64) (hx : x < 32) (hy : y < 32)
include hop hx hy

theorem field_third {t : Nat} (ht : t < 32) :
    field (imageWord op x y (t * 2 ^ 11)) 11 5 = t ∧ field (imageWord op x y (t * 2 ^ 11)) 0 11 = 0 := by
  simp only [field, Laws.toNat_imageWord hop hx hy (by omega : t * 2 ^ 11 < 65536)]
  omega

theorem imageLit_imageWord {imm : Lit} (h : imm.wf = true) :
    imageLit (imageWord op x y imm.value.toNat) = imm := by
  obtain ⟨v, overflow⟩ := imm
  obtain rfl : overflow = false := by simpa [Lit.wf] using h
  simp [imageLit, Laws.field_low hop hx hy v.isLt]

theorem imageR3_imageWord (f : Nat → Nat → Nat → Instr) {t : Nat} (ht : t < 32) :
    imageR3 f (imageWord op x y (t * 2 ^ 11)) = .instr (f x y t) := by
  have low : t * 2 ^ 11 < 65536 := by omega
  obtain ⟨third, reserved⟩ := field_third hop hx hy ht
  rw [imageR3, if_pos reserved, third, Laws.field_first hop hx hy low, Laws.field_second hop hx hy low]

theorem imageI3_imageWord (f : Nat → Nat → Lit → Instr) {imm : Lit} (h : imm.wf = true) :
    imageI3 f (imageWord op x y imm.value.toNat) = .instr (f x y imm) := by
  rw [imageI3, imageLit_imageWord hop hx hy h, Laws.field_first hop hx hy imm.value.isLt,
    Laws.field_second hop hx hy imm.value.isLt]

theorem imageM_imageWord (f : Nat → Lit → Nat → Instr) {imm : Lit} (h : imm.wf = true) :
    imageM f (imageWord op x y imm.value.toNat) = .instr (f x imm y) := by
  rw [imageM, imageLit_imageWord hop hx hy h, Laws.field_first hop hx hy imm.value.isLt,
    Laws.field_second hop hx hy imm.value.isLt]

omit hy

theorem imageI2_imageWord (f : Nat → Lit → Instr) {imm : Lit} (h : imm.wf = true) :
    imageI2 f (imageWord op x 0 imm.value.toNat) = .instr (f x imm) := by
  have hy : 0 < 32 := by decide
  rw [imageI2, if_pos (Laws.field_second hop hx hy imm.value.isLt), imageLit_imageWord hop hx hy h,
    Laws.field_first hop hx hy imm.value.isLt]

theorem imageR1_imageWord (f : Nat → Instr) : imageR1 f (imageWord op x 0 0) = .instr (f x) := by
  have reserved : field (imageWord op x 0 0) 0 21 = 0 := by
    simp only [field, Laws.toNat_imageWord hop hx (by decide : 0 < 32) (by decide : 0 < 65536)]
    omega
  rw [imageR1, if_pos reserved, Laws.field_first hop hx (by decide) (by decide)]

end ImageWord

/-- The word with ones in one field. -/
def fieldMask (lo n : Nat) : BitVec 32 := BitVec.ofNat 32 ((2 ^ n - 1) * 2 ^ lo)

theorem getLsbD_fieldMask (lo n : Nat) {k : Nat} (hk : k < 32) :
    (fieldMask lo n).getLsbD k = decide (lo ≤ k ∧ k < lo + n) := by
  rw [fieldMask, BitVec.getLsbD_ofNat, Nat.testBit_mul_two_pow, Nat.testBit_two_pow_sub_one]
  by_cases h : lo ≤ k
  · simp [hk, h, Nat.sub_lt_iff_lt_add' h]
  · simp [h]

theorem getLsbD_imageWord_op (op : Nat) {k : Nat} (hk : k < 32) :
    (imageWord op 0 0 0).getLsbD k = (decide (26 ≤ k) && op.testBit (k - 26)) := by
  simp only [imageWord, BitVec.getLsbD_ofNat, hk, decide_true, Bool.true_and, Nat.zero_mul, Nat.add_zero,
    Nat.testBit_mul_two_pow]

/-- Masked to the `op` field and a field below it, a word is one with this `op` and 0 in the other field. -/
theorem and_fieldMask_eq_iff (w : BitVec 32) {op lo n : Nat} (hop : op < 2 ^ 6) (hn : lo + n ≤ 26) :
    w &&& (fieldMask 26 6 ||| fieldMask lo n) = imageWord op 0 0 0 ↔ field w 26 6 = op ∧ field w lo n = 0 := by
  rw [field_eq_iff w 26 6 hop, field_eq_iff w lo n (Nat.two_pow_pos n)]
  have bits : w &&& (fieldMask 26 6 ||| fieldMask lo n) = imageWord op 0 0 0 ↔ ∀ k < 32,
      (w.getLsbD k && decide (26 ≤ k ∨ lo ≤ k ∧ k < lo + n)) = (decide (26 ≤ k) && op.testBit (k - 26)) := by
    rw [BitVec.eq_of_getLsbD_eq_iff]
    refine forall₂_congr fun k hk => ?_
    rw [BitVec.getLsbD_and, BitVec.getLsbD_or, getLsbD_fieldMask _ _ hk, getLsbD_fieldMask _ _ hk,
      getLsbD_imageWord_op _ hk, ← Bool.decide_or]
    simp only [show k < 26 + 6 from hk, and_true]
  rw [bits]
  constructor
  · intro h
    refine ⟨fun k hk => ?_, fun k hk => ?_⟩
    · simpa using h (26 + k) (by omega)
    · simpa [hk, show ¬ 26 ≤ lo + k by omega] using h (lo + k) (by omega)
  · rintro ⟨hop, low⟩ k hk
    by_cases h26 : 26 ≤ k
    · simpa [h26] using hop (k - 26) (by omega)
    · by_cases inside : lo ≤ k ∧ k < lo + n
      · simpa [h26, inside] using low (k - lo) (by omega)
      · simp [h26, inside]

/-! ## The formats -/

/-- A format of R98, with the instruction it fills. -/
inductive Format where
  | nop
  | r3 (f : Nat → Nat → Nat → Instr)
  | i3 (f : Nat → Nat → Lit → Instr)
  | m (f : Nat → Lit → Nat → Instr)
  | i2 (f : Nat → Lit → Instr)
  | r1 (f : Nat → Instr)

/-- The format of each `op` number in use. -/
def formats : List Format :=
  [.nop, .r3 .add, .i3 .addi, .r3 .sub, .i3 .subi, .r3 .mul, .r3 .mulu, .r3 .div, .r3 .divu, .r3 .and, .i3 .andi, .r3 .or,
   .i3 .ori, .r3 .xor, .i3 .xori, .r3 .nor, .r3 .sll, .r3 .srl, .r1 .mfhi, .m .lw, .i2 .li, .i2 .lui, .m .sw, .i3 .beq,
   .i3 .bne, .i3 .sllImm, .i3 .srlImm]

namespace Format

/-- The decoding of a word in a format. -/
def read : Format → BitVec 32 → Decoded
  | .nop, w => if w = 0 then .instr .nop else .unknown []
  | .r3 f, w => imageR3 f w
  | .i3 f, w => imageI3 f w
  | .m f, w => imageM f w
  | .i2 f, w => imageI2 f w
  | .r1 f, w => imageR1 f w

/-- The reserved field of a format, below the `op` field: its lowest bit and its length. -/
def reserved : Format → Nat × Nat
  | .nop => (0, 26)
  | .r3 _ => (0, 11)
  | .i3 _ | .m _ => (0, 0)
  | .i2 _ => (16, 5)
  | .r1 _ => (0, 21)

/-- The mask of a row: the `op` field and the reserved field. -/
def mask (fmt : Format) : BitVec 32 := fieldMask 26 6 ||| fieldMask fmt.reserved.1 fmt.reserved.2

/-- The encoder writes the instructions of the format at number `op`, and knows which have an image. -/
def Written (op : Nat) : Format → Prop
  | .nop => op = 0
  | .r3 f => ∀ d s t, encode (f d s t) = imageWord op d s (t * 2 ^ 11) ∧ (f d s t).wf = (regWf d && regWf s && regWf t)
  | .i3 f => ∀ d s imm, encode (f d s imm) = imageWord op d s imm.value.toNat ∧
      (f d s imm).wf = (regWf d && regWf s && imm.wf)
  | .m f => ∀ t off b, encode (f t off b) = imageWord op t b off.value.toNat ∧
      (f t off b).wf = (regWf t && off.wf && regWf b)
  | .i2 f => ∀ d imm, encode (f d imm) = imageWord op d 0 imm.value.toNat ∧ (f d imm).wf = (regWf d && imm.wf)
  | .r1 f => ∀ d, encode (f d) = imageWord op d 0 0 ∧ (f d).wf = regWf d

/-- The instruction is one the format fills. -/
def Fills (i : Instr) : Format → Prop
  | .nop => i = .nop
  | .r3 f => ∃ d s t, i = f d s t
  | .i3 f => ∃ d s imm, i = f d s imm
  | .m f => ∃ t off b, i = f t off b
  | .i2 f => ∃ d imm, i = f d imm
  | .r1 f => ∃ d, i = f d

end Format

/-- The decoder reads a word in the format of its `op` field. -/
theorem decodeImage_eq_read (w : BitVec 32) : decodeImage w = match formats[field w 26 6]? with
    | some fmt => fmt.read w
    | none => .unknown [] := by
  have h := field_lt w 26 6
  unfold decodeImage
  generalize field w 26 6 = op at h
  interval_cases op <;> rfl

theorem decodeImage_of_format {w : BitVec 32} {op : Nat} {fmt : Format} (hop : field w 26 6 = op)
    (h : formats[op]? = some fmt) : decodeImage w = fmt.read w := by
  rw [decodeImage_eq_read, hop, h]

/-- The rows of the opcode table are those of the formats. -/
theorem imageRows_eq : imageRows = formats.mapIdx fun op fmt => (imageWord op 0 0 0, fmt.mask) := rfl

theorem mem_imageRows {row : BitVec 32 × BitVec 32} : row ∈ imageRows ↔
    ∃ op fmt, formats[op]? = some fmt ∧ row = (imageWord op 0 0 0, fmt.mask) := by
  rw [imageRows_eq, List.mem_iff_getElem?]
  simp [List.getElem?_mapIdx, eq_comm]

section Row

variable {op : Nat} {fmt : Format} (h : formats[op]? = some fmt)
include h

theorem op_lt_of_format : op < 27 := (List.getElem?_eq_some_iff.mp h).1

theorem format_written : fmt.Written op := by
  have := op_lt_of_format h
  cases fmt with
  | nop => interval_cases op <;> cases h; rfl
  | r3 f | i3 f | m f => interval_cases op <;> cases h <;> exact fun _ _ _ => ⟨rfl, rfl⟩
  | i2 f => interval_cases op <;> cases h <;> exact fun _ _ => ⟨rfl, rfl⟩
  | r1 f => interval_cases op <;> cases h; exact fun _ => ⟨rfl, rfl⟩

end Row

/-- Every instruction has the format of its `op` number. -/
theorem exists_format (i : Instr) : ∃ fmt, formats[i.op]? = some fmt ∧ fmt.Fills i := by
  cases i with
  | nop => exact ⟨_, rfl, rfl⟩
  | mfhi d => exact ⟨_, rfl, d, rfl⟩
  | li d imm | lui d imm => exact ⟨_, rfl, d, imm, rfl⟩
  | _ x y z => exact ⟨_, rfl, x, y, z, rfl⟩

/-- The decoder reads back what the encoder writes: in each format, field by field. -/
theorem decodeImage_encode {i : Instr} (wf : i.wf = true) : decodeImage (encode i) = .instr i := by
  obtain ⟨fmt, hfmt, fills⟩ := exists_format i
  have hop : i.op < 64 := (op_lt_of_format hfmt).trans (by decide)
  have written := format_written hfmt
  generalize i.op = op at hfmt hop written
  cases fmt with
  | nop => rw [fills]; rfl
  | r3 f =>
    obtain ⟨d, s, t, rfl⟩ := fills
    obtain ⟨image, hwf⟩ := written d s t
    simp only [hwf, Bool.and_eq_true, Laws.regWf_iff] at wf
    obtain ⟨⟨hd, hs⟩, ht⟩ := wf
    rw [image, decodeImage_of_format (Laws.field_op hop hd hs (by omega)) hfmt]
    exact imageR3_imageWord hop hd hs f ht
  | i3 f =>
    obtain ⟨d, s, imm, rfl⟩ := fills
    obtain ⟨image, hwf⟩ := written d s imm
    simp only [hwf, Bool.and_eq_true, Laws.regWf_iff] at wf
    obtain ⟨⟨hd, hs⟩, himm⟩ := wf
    rw [image, decodeImage_of_format (Laws.field_op hop hd hs imm.value.isLt) hfmt]
    exact imageI3_imageWord hop hd hs f himm
  | m f =>
    obtain ⟨t, off, b, rfl⟩ := fills
    obtain ⟨image, hwf⟩ := written t off b
    simp only [hwf, Bool.and_eq_true, Laws.regWf_iff] at wf
    obtain ⟨⟨ht, hoff⟩, hb⟩ := wf
    rw [image, decodeImage_of_format (Laws.field_op hop ht hb off.value.isLt) hfmt]
    exact imageM_imageWord hop ht hb f hoff
  | i2 f =>
    obtain ⟨d, imm, rfl⟩ := fills
    obtain ⟨image, hwf⟩ := written d imm
    simp only [hwf, Bool.and_eq_true, Laws.regWf_iff] at wf
    obtain ⟨hd, himm⟩ := wf
    rw [image, decodeImage_of_format (Laws.field_op hop hd (by decide) imm.value.isLt) hfmt]
    exact imageI2_imageWord hop hd f himm
  | r1 f =>
    obtain ⟨d, rfl⟩ := fills
    obtain ⟨image, hwf⟩ := written d
    rw [hwf, Laws.regWf_iff] at wf
    rw [image, decodeImage_of_format (Laws.field_op hop wf (by decide) (by decide)) hfmt]
    exact imageR1_imageWord hop wf f

/-- A word that a format reads is the image of the instruction read. -/
theorem encode_of_read {w : BitVec 32} {i : Instr} {fmt : Format} (hfmt : formats[field w 26 6]? = some fmt)
    (h : fmt.read w = .instr i) : i.wf = true ∧ encode i = w := by
  have written := format_written hfmt
  have fields := imageWord_fields w
  cases fmt with
  | nop =>
    simp only [Format.read, ite_eq_iff, reduceCtorEq, and_false, or_false, Decoded.instr.injEq] at h
    obtain ⟨rfl, rfl⟩ := h
    exact ⟨rfl, rfl⟩
  | r3 f =>
    simp only [Format.read, imageR3, ite_eq_iff, reduceCtorEq, and_false, or_false, Decoded.instr.injEq] at h
    obtain ⟨reserved, rfl⟩ := h
    obtain ⟨image, hwf⟩ := written (field w 21 5) (field w 16 5) (field w 11 5)
    rw [hwf, image, ← field_low_of_reserved reserved]
    exact ⟨by simp only [regWf_field, Bool.and_self], fields⟩
  | i3 f =>
    cases h
    obtain ⟨image, hwf⟩ := written (field w 21 5) (field w 16 5) (imageLit w)
    rw [hwf, image, toNat_imageLit]
    exact ⟨by simp only [regWf_field, wf_imageLit, Bool.and_self], fields⟩
  | m f =>
    cases h
    obtain ⟨image, hwf⟩ := written (field w 21 5) (imageLit w) (field w 16 5)
    rw [hwf, image, toNat_imageLit]
    exact ⟨by simp only [regWf_field, wf_imageLit, Bool.and_self], fields⟩
  | i2 f =>
    simp only [Format.read, imageI2, ite_eq_iff, reduceCtorEq, and_false, or_false, Decoded.instr.injEq] at h
    obtain ⟨reserved, rfl⟩ := h
    obtain ⟨image, hwf⟩ := written (field w 21 5) (imageLit w)
    rw [hwf, image, toNat_imageLit]
    exact ⟨by simp only [regWf_field, wf_imageLit, Bool.and_self], by rwa [reserved] at fields⟩
  | r1 f =>
    simp only [Format.read, imageR1, ite_eq_iff, reduceCtorEq, and_false, or_false, Decoded.instr.injEq] at h
    obtain ⟨reserved, rfl⟩ := h
    obtain ⟨second, low⟩ := fields_of_low_zero reserved
    obtain ⟨image, hwf⟩ := written (field w 21 5)
    rw [hwf, image]
    exact ⟨regWf_field w 21, by rwa [second, low] at fields⟩

/-- An image that decodes is the one the encoder writes. -/
theorem encode_of_decodeImage {w : BitVec 32} {i : Instr} (h : decodeImage w = .instr i) :
    i.wf = true ∧ encode i = w := by
  rw [decodeImage_eq_read] at h
  split at h
  · next fmt hfmt => exact encode_of_read hfmt h
  · cases h

/-! ## The rows -/

/-- A word matches the row of a format when it has the row's `op` and its reserved field is 0. -/
theorem matches_row_iff {w : BitVec 32} {op : Nat} {fmt : Format} (hfmt : formats[op]? = some fmt) :
    w &&& fmt.mask = imageWord op 0 0 0 ↔ field w 26 6 = op ∧ field w fmt.reserved.1 fmt.reserved.2 = 0 := by
  have hop := op_lt_of_format hfmt
  exact and_fieldMask_eq_iff w (by omega) (by cases fmt <;> simp [Format.reserved])

/-- A format reads an instruction when its reserved field is 0, and else an unknown mnemonic. -/
theorem read_cases {w : BitVec 32} {fmt : Format} (hfmt : formats[field w 26 6]? = some fmt) :
    (field w fmt.reserved.1 fmt.reserved.2 = 0 ∧ ∃ i, fmt.read w = .instr i) ∨
    (field w fmt.reserved.1 fmt.reserved.2 ≠ 0 ∧ fmt.read w = .unknown []) := by
  cases fmt with
  | nop =>
    have hop : field w 26 6 = 0 := format_written hfmt
    have zero : field w 0 26 = 0 ↔ w = 0 := by
      rw [← BitVec.toNat_inj]
      simp only [field, BitVec.ofNat_eq_ofNat, BitVec.toNat_ofNat] at *
      omega
    by_cases h : w = 0
    · exact .inl ⟨zero.mpr h, _, if_pos h⟩
    · exact .inr ⟨mt zero.mp h, if_neg h⟩
  | i3 f | m f => exact .inl ⟨Nat.mod_one _, _, rfl⟩
  | r3 f =>
    by_cases h : field w 0 11 = 0
    · exact .inl ⟨h, _, if_pos h⟩
    · exact .inr ⟨h, if_neg h⟩
  | i2 f =>
    by_cases h : field w 16 5 = 0
    · exact .inl ⟨h, _, if_pos h⟩
    · exact .inr ⟨h, if_neg h⟩
  | r1 f =>
    by_cases h : field w 0 21 = 0
    · exact .inl ⟨h, _, if_pos h⟩
    · exact .inr ⟨h, if_neg h⟩

/-- A word matches a row when the format of its `op` has a reserved field that is 0 in the word. -/
theorem exists_matching_row_iff (w : BitVec 32) : (∃ row ∈ imageRows, w &&& row.2 = row.1) ↔
    ∃ fmt, formats[field w 26 6]? = some fmt ∧ field w fmt.reserved.1 fmt.reserved.2 = 0 := by
  constructor
  · rintro ⟨_, hrow, hw⟩
    obtain ⟨op, fmt, hfmt, rfl⟩ := mem_imageRows.mp hrow
    obtain ⟨rfl, low⟩ := (matches_row_iff hfmt).mp hw
    exact ⟨fmt, hfmt, low⟩
  · rintro ⟨fmt, hfmt, low⟩
    exact ⟨_, mem_imageRows.mpr ⟨_, fmt, hfmt, rfl⟩, (matches_row_iff hfmt).mpr ⟨rfl, low⟩⟩

/-- A word matches a row and decodes to an instruction, or does neither. -/
theorem decodeImage_cases (w : BitVec 32) :
    ((∃ row ∈ imageRows, w &&& row.2 = row.1) ∧ ∃ i, decodeImage w = .instr i) ∨
    ((¬ ∃ row ∈ imageRows, w &&& row.2 = row.1) ∧ decodeImage w = .unknown []) := by
  rw [exists_matching_row_iff, decodeImage_eq_read]
  cases hfmt : formats[field w 26 6]? with
  | none => exact .inr ⟨by simp, rfl⟩
  | some fmt =>
    obtain ⟨low, read⟩ | ⟨low, read⟩ := read_cases hfmt
    · exact .inl ⟨⟨fmt, rfl, low⟩, read⟩
    · refine .inr ⟨?_, read⟩
      rintro ⟨_, ⟨⟩, low'⟩
      exact low low'

end Sys2Proof

namespace Sys2Proof.Claims

/-- Settles O1: in each format the decoder reads back the fields the encoder writes. -/
theorem imageDecodesWhatEncodeWrites : Obligations.ImageDecodesWhatEncodeWrites :=
  fun _ wf => decodeImage_encode wf

/-- Settles O2: in each format the encoder writes back the fields the decoder reads. -/
theorem encodeWritesWhatImageDecodes : Obligations.EncodeWritesWhatImageDecodes :=
  fun _ _ h => encode_of_decodeImage h

/-- Settles O4: a row asks for its format's `op` and reserved bits of 0, which is what the format's decoder asks for; the
`op` tells the rows apart. -/
theorem imageRowsDecideDecoding : Obligations.ImageRowsDecideDecoding := by
  refine ⟨fun w => ?_, fun w no_row => ?_, fun w row hrow row' hrow' hw hw' => ?_⟩
  · obtain ⟨row, decoded⟩ | ⟨no_row, unknown⟩ := decodeImage_cases w
    · exact iff_of_true decoded row
    · exact iff_of_false (by simp [unknown]) no_row
  · obtain ⟨⟨row, hrow, hw⟩, -⟩ | ⟨-, unknown⟩ := decodeImage_cases w
    · exact absurd hw (no_row row hrow)
    · exact unknown
  · obtain ⟨op, fmt, hfmt, rfl⟩ := mem_imageRows.mp hrow
    obtain ⟨op', fmt', hfmt', rfl⟩ := mem_imageRows.mp hrow'
    obtain ⟨rfl, -⟩ := (matches_row_iff hfmt).mp hw
    obtain ⟨rfl, -⟩ := (matches_row_iff hfmt').mp hw'
    rw [Option.some.inj (hfmt.symm.trans hfmt')]

end Sys2Proof.Claims
end

section
/-! PROOF. The textual encoding (30_encoding.md R80 to R97): normalisation, numerals, the canonical forms of a mnemonic, and
the canonical source line, which is normalised and tokenised back into the tokens it is rendered from. -/

namespace Sys2Proof

open Claims

/-! ## Characters by their numbers -/

theorem isSpace_iff (c : Char) : isSpace c = true ↔ 9 ≤ c.toNat ∧ c.toNat ≤ 13 ∨ c.toNat = 32 := by
  have numbers : (Char.ofNat 11).toNat = 11 ∧ (Char.ofNat 12).toNat = 12 := by decide
  simp only [isSpace, Bool.or_eq_true, beq_iff_eq, ← Char.toNat_inj, Char.reduceToNat, numbers]
  omega

theorem isSeparator_iff (c : Char) : isSeparator c = true ↔ c.toNat = 32 ∨ c.toNat = 9 ∨ c.toNat = 44 := by
  simp [isSeparator, ← Char.toNat_inj, or_assoc]

theorem isLower_iff (c : Char) : c.isLower = true ↔ 97 ≤ c.toNat ∧ c.toNat ≤ 122 := by
  simp [Char.isLower, UInt32.le_iff_toNat_le]

theorem eq_numberSign_iff (c : Char) : c = '#' ↔ c.toNat = 35 := Char.toNat_inj.symm

theorem toNat_upperCase (c : Char) :
    (upperCase c).toNat = if 97 ≤ c.toNat ∧ c.toNat ≤ 122 then c.toNat - 32 else c.toNat := by
  unfold upperCase
  split
  · rw [Char.toNat_ofNat, if_pos (.inl (by omega))]
  · rfl

theorem toUpper_eq_upperCase (c : Char) : c.toUpper = upperCase c := by
  rw [← Char.toNat_inj, toNat_upperCase]
  have range : ('a'.val ≤ c.val ∧ c.val ≤ 'z'.val) ↔ 97 ≤ c.toNat ∧ c.toNat ≤ 122 := by
    simp [UInt32.le_iff_toNat_le]
  unfold Char.toUpper
  split
  · next letter =>
    obtain ⟨h97, h122⟩ := range.mp letter
    rw [if_pos ⟨h97, h122⟩]
    change (c.val + ('A'.val - 'a'.val)).toNat = c.toNat - 32
    rw [UInt32.toNat_add, Char.toNat_val]
    change (c.toNat + 4294967264) % 2 ^ 32 = c.toNat - 32
    omega
  · next other => rw [if_neg (mt range.mpr other)]

theorem isSpace_upperCase (c : Char) : isSpace (upperCase c) = isSpace c := by
  rw [Bool.eq_iff_iff, isSpace_iff, isSpace_iff, toNat_upperCase]
  split <;> omega

theorem upperCase_eq_numberSign_iff (c : Char) : upperCase c = '#' ↔ c = '#' := by
  rw [eq_numberSign_iff, eq_numberSign_iff, toNat_upperCase]
  split <;> omega

theorem isLower_upperCase (c : Char) : (upperCase c).isLower = false := by
  rw [Bool.eq_false_iff, Ne, isLower_iff, toNat_upperCase]
  split <;> omega

theorem upperCase_of_not_isLower {c : Char} (h : c.isLower = false) : upperCase c = c :=
  if_neg (mt (isLower_iff c).mpr (Bool.eq_false_iff.mp h))

/-! ## Normalisation -/

/-- No white space at the ends. -/
def Trimmed (l : List Char) : Prop := ∀ c, l.head? = some c ∨ l.getLast? = some c → isSpace c = false

theorem trim_eq (l : List Char) : trim l = (l.dropWhile isSpace).rdropWhile isSpace := rfl

theorem trim_append_left {p : List Char} (h : ∀ c ∈ p, isSpace c = true) (l : List Char) : trim (p ++ l) = trim l := by
  rw [trim, List.dropWhile_append_of_pos h, trim]

theorem trim_append_right {q : List Char} (h : ∀ c ∈ q, isSpace c = true) (l : List Char) : trim (l ++ q) = trim l := by
  rw [trim_eq, trim_eq, List.dropWhile_append]
  split
  · next empty =>
    rw [List.dropWhile_eq_nil_iff.mpr h, List.isEmpty_iff.mp empty]
  · rw [List.rdropWhile, List.reverse_append, List.dropWhile_append_of_pos (by simpa using h), List.rdropWhile]

theorem trim_of_trimmed {l : List Char} (h : Trimmed l) : trim l = l := by
  have first : l.dropWhile isSpace = l := by
    rw [List.dropWhile_eq_self_iff]
    intro hl
    simp [h _ (.inl (List.head?_eq_getElem? ▸ List.getElem?_eq_getElem hl))]
  rw [trim_eq, first, List.rdropWhile_eq_self_iff]
  intro hl
  simp [h _ (.inr (List.getLast?_eq_some_getLast hl))]

theorem trimmed_trim (l : List Char) : Trimmed (trim l) := by
  rintro c (first | last)
  · obtain ⟨rest, split_at⟩ := List.rdropWhile_prefix isSpace (l.dropWhile isSpace)
    have first' : (l.dropWhile isSpace).head? = some c := by
      rw [← split_at, ← trim_eq, List.head?_append, first, Option.some_or]
    have h := List.head?_dropWhile_not isSpace l
    rwa [first'] at h
  · have hl : trim l ≠ [] := by
      intro empty
      simp [empty] at last
    obtain rfl : (trim l).getLast hl = c := Option.some.inj ((List.getLast?_eq_some_getLast hl).symm.trans last)
    exact Bool.eq_false_iff.mpr (List.rdropWhile_last_not _ _ hl)

theorem mem_of_mem_trim {l : List Char} {c : Char} (h : c ∈ trim l) : c ∈ l :=
  (List.dropWhile_sublist _).mem ((List.rdropWhile_prefix _ _).mem h)

theorem normalise_eq (line : List Char) : normalise line = (trim (line.takeWhile (· != '#'))).map upperCase :=
  List.map_congr_left fun c _ => toUpper_eq_upperCase c

theorem takeWhile_of_no_comment {l : List Char} (h : '#' ∉ l) : l.takeWhile (· != '#') = l := by
  rw [List.takeWhile_eq_self_iff]
  intro c hc
  simp [ne_of_mem_of_not_mem hc h]

theorem takeWhile_comment {l : List Char} (h : '#' ∉ l) (comment : List Char) :
    (l ++ '#' :: comment).takeWhile (· != '#') = l := by
  rw [List.takeWhile_append_of_pos (by simpa using fun c hc => ne_of_mem_of_not_mem hc h)]
  simp

/-- What a normalised line is. -/
structure Normal (l : List Char) : Prop where
  no_comment : '#' ∉ l
  no_lower : ∀ c ∈ l, c.isLower = false
  trimmed : Trimmed l

theorem Trimmed.map_upperCase {l : List Char} (h : Trimmed l) : Trimmed (l.map upperCase) := by
  intro c hc
  simp only [List.head?_map, List.getLast?_map, Option.map_eq_some_iff] at hc
  obtain ⟨c, hc, rfl⟩ | ⟨c, hc, rfl⟩ := hc
  · rw [isSpace_upperCase, h c (.inl hc)]
  · rw [isSpace_upperCase, h c (.inr hc)]

theorem normal_normalise (line : List Char) : Normal (normalise line) := by
  rw [normalise_eq]
  refine ⟨fun h => ?_, fun c h => ?_, (trimmed_trim _).map_upperCase⟩
  · obtain ⟨c, hc, upper⟩ := List.mem_map.mp h
    rw [upperCase_eq_numberSign_iff] at upper
    simpa [upper] using List.mem_takeWhile_imp (mem_of_mem_trim hc)
  · obtain ⟨c, -, rfl⟩ := List.mem_map.mp h
    exact isLower_upperCase c

theorem normalise_of_normal {l : List Char} (h : Normal l) : normalise l = l := by
  rw [normalise_eq, takeWhile_of_no_comment h.no_comment, trim_of_trimmed h.trimmed]
  exact (List.map_congr_left fun c hc => upperCase_of_not_isLower (h.no_lower c hc)).trans l.map_id

/-- A body between white space is kept, in upper case. -/
theorem normalise_surrounded {p body q : List Char} (hp : ∀ c ∈ p, isSpace c = true) (hq : ∀ c ∈ q, isSpace c = true)
    (h : Trimmed body) {line : List Char} (uncommented : line.takeWhile (· != '#') = p ++ body ++ q) :
    normalise line = body.map upperCase := by
  rw [normalise_eq, uncommented, trim_append_right hq, trim_append_left hp, trim_of_trimmed h]

theorem numberSign_not_mem_of_isSpace {p : List Char} (h : ∀ c ∈ p, isSpace c = true) : '#' ∉ p :=
  fun hc => absurd (h _ hc) (by decide)

/-! ## Numerals -/

theorem numeral_append (base : Nat) (ds : List Char) (c : Char) :
    numeral base (ds ++ [c]) = numeral base ds * base + digitValue c := by
  simp [numeral]

theorem numeral_lt {base : Nat} {ds : List Char} (h : ∀ c ∈ ds, digitValue c < base) :
    numeral base ds < base ^ ds.length := by
  induction ds using List.reverseRecOn with
  | nil => simp [numeral]
  | append_singleton ds c ih =>
    have low := ih fun c hc => h c (List.mem_append_left _ hc)
    have last := h c (by simp)
    rw [numeral_append, List.length_append, List.length_singleton, Nat.pow_succ]
    calc numeral base ds * base + digitValue c < (numeral base ds + 1) * base := by rw [Nat.add_one_mul]; omega
      _ ≤ base ^ ds.length * base := Nat.mul_le_mul_right base low

theorem isHexDigit_iff (c : Char) :
    isHexDigit c = true ↔ 48 ≤ c.toNat ∧ c.toNat ≤ 57 ∨ 65 ≤ c.toNat ∧ c.toNat ≤ 70 := by
  simp [isHexDigit, isDecDigit]

theorem digitValue_lt_of_isHexDigit {c : Char} (h : isHexDigit c = true) : digitValue c < 16 := by
  rw [isHexDigit_iff] at h
  unfold digitValue
  split <;> omega

theorem isHexDigit_digitChar {n : Nat} (h : n < 16) : isHexDigit (digitChar n) = true := by
  revert n; decide

theorem digitValue_digitChar {n : Nat} (h : n < 16) : digitValue (digitChar n) = n := by
  revert n; decide

theorem isDecDigit_digitChar {n : Nat} (h : n < 10) : isDecDigit (digitChar n) = true := by
  revert n; decide

/-! ## Literals -/

theorem literalToken_of_digits {tok : List Char} (nonempty : tok ≠ []) (digits : tok.all isHexDigit = true) :
    literalToken tok = some { value := BitVec.ofNat 16 (numeral 16 (tok.take 4)), overflow := decide (4 < tok.length) } :=
  if_pos (by simp [nonempty, digits])

theorem literalToken_eq_none {tok : List Char} (h : tok = [] ∨ tok.all isHexDigit = false) : literalToken tok = none :=
  if_neg (by obtain rfl | h := h <;> simp [*])

/-- The first four digits spell a 16-bit number. -/
theorem numeral_take_four_lt {tok : List Char} (digits : tok.all isHexDigit = true) :
    numeral 16 (tok.take 4) < 2 ^ 16 := by
  rw [List.all_eq_true] at digits
  calc numeral 16 (tok.take 4) < 16 ^ (tok.take 4).length :=
        numeral_lt fun c hc => digitValue_lt_of_isHexDigit (digits c (List.mem_of_mem_take hc))
    _ ≤ 16 ^ 4 := Nat.pow_le_pow_right (by decide) (by simp)

/-! ## Canonical forms -/

theorem kindOf_eq_reg {t : Token} : kindOf t = .reg ↔ ∃ n, t = .reg n := by cases t <;> simp [kindOf]
theorem kindOf_eq_lit {t : Token} : kindOf t = .lit ↔ ∃ l, t = .lit l := by cases t <;> simp [kindOf]
theorem kindOf_eq_mem {t : Token} : kindOf t = .mem ↔ ∃ off b, t = .mem off b := by cases t <;> simp [kindOf]
theorem kindOf_eq_malformed {t : Token} : kindOf t = .malformed ↔ t = .malformed := by cases t <;> simp [kindOf]

theorem eq_of_kinds_reg_reg_reg {ops : List Token} (h : ops.map kindOf = [.reg, .reg, .reg]) :
    ∃ d s t, ops = [.reg d, .reg s, .reg t] := by
  simpa [List.map_eq_cons_iff, kindOf_eq_reg] using h

theorem eq_of_kinds_reg_reg_lit {ops : List Token} (h : ops.map kindOf = [.reg, .reg, .lit]) :
    ∃ d s imm, ops = [.reg d, .reg s, .lit imm] := by
  simpa [List.map_eq_cons_iff, kindOf_eq_reg, kindOf_eq_lit] using h

theorem eq_of_kinds_reg_mem {ops : List Token} (h : ops.map kindOf = [.reg, .mem]) :
    ∃ t off b, ops = [.reg t, .mem off b] := by
  simpa [List.map_eq_cons_iff, kindOf_eq_reg, kindOf_eq_mem] using h

theorem eq_of_kinds_reg_lit {ops : List Token} (h : ops.map kindOf = [.reg, .lit]) : ∃ d imm, ops = [.reg d, .lit imm] := by
  simpa [List.map_eq_cons_iff, kindOf_eq_reg, kindOf_eq_lit] using h

theorem eq_of_kinds_reg {ops : List Token} (h : ops.map kindOf = [.reg]) : ∃ d, ops = [.reg d] := by
  simpa [List.map_eq_cons_iff, kindOf_eq_reg] using h

/-- The kinds of its operands are all that makes a line with a known mnemonic canonical (R92). -/
theorem exists_canonical_iff (k : Mnemonic) (ops : List Token) :
    (∃ i, canonical k ops = some i) ↔ ops.map kindOf ∈ canonicalKinds k := by
  constructor
  · rintro ⟨i, h⟩
    unfold canonical at h
    split at h
    case h_27 => cases h
    all_goals simp [canonicalKinds, kindOf]
  · intro h
    cases k with
    | add | sub | mul | mulu | div | divu | and | or | xor | nor =>
      obtain ⟨d, s, t, rfl⟩ := eq_of_kinds_reg_reg_reg (List.mem_singleton.mp h)
      exact ⟨_, rfl⟩
    | addi | subi | andi | ori | xori | beq | bne =>
      obtain ⟨d, s, imm, rfl⟩ := eq_of_kinds_reg_reg_lit (List.mem_singleton.mp h)
      exact ⟨_, rfl⟩
    | sll | srl =>
      obtain h | h := List.mem_pair.mp h
      · obtain ⟨d, s, t, rfl⟩ := eq_of_kinds_reg_reg_reg h
        exact ⟨_, rfl⟩
      · obtain ⟨d, s, imm, rfl⟩ := eq_of_kinds_reg_reg_lit h
        exact ⟨_, rfl⟩
    | mfhi =>
      obtain ⟨d, rfl⟩ := eq_of_kinds_reg (List.mem_singleton.mp h)
      exact ⟨_, rfl⟩
    | lw | sw =>
      obtain ⟨t, off, b, rfl⟩ := eq_of_kinds_reg_mem (List.mem_singleton.mp h)
      exact ⟨_, rfl⟩
    | li | lui =>
      obtain ⟨d, imm, rfl⟩ := eq_of_kinds_reg_lit (List.mem_singleton.mp h)
      exact ⟨_, rfl⟩

/-- The operands of a canonical form are at least one, and well formed. -/
theorem operands_of_canonical {k : Mnemonic} {ops : List Token} {i : Instr} (h : canonical k ops = some i) :
    ops ≠ [] ∧ .malformed ∉ ops := by
  have table : ∀ kinds ∈ canonicalKinds k, kinds ≠ [] ∧ .malformed ∉ kinds := by cases k <;> decide
  obtain ⟨nonempty, formed⟩ := table _ ((exists_canonical_iff k ops).mp ⟨i, h⟩)
  exact ⟨mt (congrArg (List.map kindOf)) nonempty, fun hm => formed (List.mem_map_of_mem (f := kindOf) hm)⟩

/-! ## Lines with a known mnemonic -/

theorem mnemonicOf_text (k : Mnemonic) : mnemonicOf k.text = some k := by cases k <;> rfl

theorem decodeTokens_of_unknown {m : List Char} (h : mnemonicOf m = none) (ops : List (List Char)) :
    decodeTokens (m :: ops) = .unknown m := by
  simp [decodeTokens, h]

theorem decodeTokens_of_canonical {k : Mnemonic} {ops : List (List Char)} {i : Instr}
    (h : canonical k (ops.map classify) = some i) : decodeTokens (k.text :: ops) = .instr i := by
  simp [decodeTokens, mnemonicOf_text, h]

/-- A line with a known mnemonic and other kinds than a canonical form's is refused (R94 to R96). -/
theorem decodeTokens_of_kinds_not_mem {k : Mnemonic} {ops : List (List Char)}
    (h : (ops.map classify).map kindOf ∉ canonicalKinds k) :
    decodeTokens (k.text :: ops) = .illFormed (refusalReason k (ops.map classify)) := by
  rw [← exists_canonical_iff, ← Option.ne_none_iff_exists', not_not] at h
  simp [decodeTokens, mnemonicOf_text, h]

theorem any_malformed_iff (ops : List Token) : ops.any (· == .malformed) = true ↔ .malformed ∈ ops.map kindOf := by
  simp [kindOf_eq_malformed]

section RefusalReason

variable {k : Mnemonic} {ops : List Token}

theorem refusalReason_of_malformed (h : .malformed ∈ ops.map kindOf) : refusalReason k ops = .malformedToken :=
  if_pos ((any_malformed_iff ops).mpr h)

theorem refusalReason_of_shape_ne (h : .malformed ∉ ops.map kindOf) (shape : shapeOf ops ≠ some k.shape) :
    refusalReason k ops = .wrongShape := by
  rw [refusalReason, if_neg (mt (any_malformed_iff ops).mp h), if_pos shape]

theorem refusalReason_of_shape_eq (h : .malformed ∉ ops.map kindOf) (shape : shapeOf ops = some k.shape) :
    refusalReason k ops = .wrongOperandKind := by
  rw [refusalReason, if_neg (mt (any_malformed_iff ops).mp h), if_neg (not_not.mpr shape)]

end RefusalReason

/-! ## The canonical tokens -/

/-- The text of an operand token; a malformed one has none. -/
def renderToken : Token → List Char
  | .reg n => renderReg n
  | .lit l => renderLit l
  | .mem off b => renderMem off b
  | .malformed => []

theorem decimalDigits_spec {fuel n : Nat} (h : n < fuel) : decimalDigits fuel n ≠ [] ∧
    (decimalDigits fuel n).all isDecDigit = true ∧ numeral 10 (decimalDigits fuel n) = n := by
  induction fuel generalizing n with
  | zero => omega
  | succ fuel ih =>
    have digit := isDecDigit_digitChar (Nat.mod_lt n (by decide : 10 > 0))
    have value := digitValue_digitChar (n := n % 10) (by omega)
    rw [decimalDigits]
    split
    · next small =>
      rw [Nat.mod_eq_of_lt small] at digit value
      simp [digit, value, numeral]
    · next large =>
      obtain ⟨-, digits, spelled⟩ := ih (n := n / 10) (by omega)
      refine ⟨by simp, by simp [digit, digits], ?_⟩
      rw [numeral_append, spelled, value]
      omega

theorem registerToken_renderReg (n : Nat) : registerToken (renderReg n) = some n := by
  obtain ⟨nonempty, digits, spelled⟩ := decimalDigits_spec (Nat.lt_add_one n)
  simp only [registerToken, renderReg, digits, spelled]
  simp [nonempty]

theorem registerToken_eq_none {tok : List Char} (h : tok.head? ≠ some '$') : registerToken tok = none := by
  unfold registerToken
  split
  · simp at h
  · rfl

/-- The four digits of a literal, and a fifth. -/
theorem all_isHexDigit_renderLit (l : Lit) : (renderLit l).all isHexDigit = true := by
  obtain ⟨v, overflow⟩ := l
  have digit (m : Nat) : isHexDigit (digitChar (m % 16)) = true := isHexDigit_digitChar (Nat.mod_lt m (by decide))
  have fifth : isHexDigit '0' = true := by decide
  cases overflow <;> simp [renderLit, digit, fifth]

theorem renderLit_ne_nil (l : Lit) : renderLit l ≠ [] := by simp [renderLit]

theorem numeral_take_renderLit (l : Lit) : numeral 16 ((renderLit l).take 4) = l.value.toNat := by
  have hv : l.value.toNat < 65536 := l.value.isLt
  have value (m : Nat) : digitValue (digitChar (m % 16)) = m % 16 := digitValue_digitChar (Nat.mod_lt m (by decide))
  simp only [renderLit, numeral, List.cons_append, List.take_succ_cons, List.take_zero, List.foldl_cons, List.foldl_nil,
    value]
  omega

theorem literalToken_renderLit (l : Lit) : literalToken (renderLit l) = some l := by
  rw [literalToken_of_digits (renderLit_ne_nil l) (all_isHexDigit_renderLit l), numeral_take_renderLit]
  obtain ⟨v, overflow⟩ := l
  cases overflow <;> simp [renderLit]

theorem head?_ne_of_isHexDigit {tok : List Char} (h : tok.all isHexDigit = true) : tok.head? ≠ some '$' := by
  intro first
  exact absurd (List.all_eq_true.mp h _ (List.mem_of_mem_head? first)) (by decide)

theorem memoryToken_renderMem (off : Lit) (b : Nat) : memoryToken (renderMem off b) = some (off, b) := by
  have digits : ∀ c ∈ renderLit off, (c != '(') = true := by
    intro c hc
    have hex := List.all_eq_true.mp (all_isHexDigit_renderLit off) c hc
    exact bne_iff_ne.mpr (by rintro rfl; exact absurd hex (by decide))
  rw [memoryToken, renderMem, List.append_assoc, List.dropWhile_append_of_pos digits,
    List.takeWhile_append_of_pos digits]
  simp [literalToken_renderLit, registerToken_renderReg]

/-- Each operand token is of the class it is rendered from (R84). -/
theorem classify_renderToken {t : Token} (h : t ≠ .malformed) : classify (renderToken t) = t := by
  cases t with
  | reg n => simp [renderToken, classify, registerToken_renderReg]
  | lit l =>
    have no_register := registerToken_eq_none (head?_ne_of_isHexDigit (all_isHexDigit_renderLit l))
    simp [renderToken, classify, no_register, literalToken_renderLit]
  | mem off b =>
    have no_register : registerToken (renderMem off b) = none := by
      refine registerToken_eq_none ?_
      rw [renderMem, List.append_assoc, List.head?_append_of_ne_nil _ (renderLit_ne_nil off)]
      exact head?_ne_of_isHexDigit (all_isHexDigit_renderLit off)
    have no_literal : literalToken (renderMem off b) = none := by
      refine literalToken_eq_none (.inr ?_)
      exact List.all_eq_false.mpr ⟨'(', by simp [renderMem], by decide⟩
    simp [renderToken, classify, no_register, no_literal, memoryToken_renderMem]
  | malformed => exact absurd rfl h

/-! ## The canonical line -/

/-- The characters of canonical tokens: no white space, separator, number sign or lower-case letter. -/
def plain (c : Char) : Bool := decide (36 ≤ c.toNat ∧ c.toNat ≤ 90 ∧ c.toNat ≠ 44)

theorem plain_iff (c : Char) : plain c = true ↔ 36 ≤ c.toNat ∧ c.toNat ≤ 90 ∧ c.toNat ≠ 44 := by simp [plain]

theorem plain_of_isHexDigit {c : Char} (h : isHexDigit c = true) : plain c = true := by
  rw [isHexDigit_iff] at h
  rw [plain_iff]
  omega

theorem isSpace_of_plain {c : Char} (h : plain c = true) : isSpace c = false := by
  rw [Bool.eq_false_iff, Ne, isSpace_iff]
  rw [plain_iff] at h
  omega

theorem isSeparator_of_plain {c : Char} (h : plain c = true) : isSeparator c = false := by
  rw [Bool.eq_false_iff, Ne, isSeparator_iff]
  rw [plain_iff] at h
  omega

theorem isLower_of_plain {c : Char} (h : plain c = true) : c.isLower = false := by
  rw [Bool.eq_false_iff, Ne, isLower_iff]
  rw [plain_iff] at h
  omega

theorem ne_numberSign_of_plain {c : Char} (h : plain c = true) : c ≠ '#' := by
  rw [Ne, eq_numberSign_iff]
  rw [plain_iff] at h
  omega

/-- A text that can stand between separators as a token. -/
def PlainToken (tok : List Char) : Prop := tok ≠ [] ∧ tok.all plain = true

theorem plainToken_text (k : Mnemonic) : PlainToken k.text := by cases k <;> exact ⟨by decide, by decide⟩

theorem plainToken_renderReg (n : Nat) : PlainToken (renderReg n) := by
  obtain ⟨-, digits, -⟩ := decimalDigits_spec (Nat.lt_add_one n)
  have plain_digits : (decimalDigits (n + 1) n).all plain = true :=
    List.all_eq_true.mpr fun c hc =>
      plain_of_isHexDigit (by rw [isHexDigit, List.all_eq_true.mp digits c hc, Bool.true_or])
  exact ⟨by simp [renderReg], by rw [renderReg, List.all_cons, plain_digits]; decide⟩

theorem plainToken_renderLit (l : Lit) : PlainToken (renderLit l) :=
  ⟨renderLit_ne_nil l, List.all_eq_true.mpr fun c hc =>
    plain_of_isHexDigit (List.all_eq_true.mp (all_isHexDigit_renderLit l) c hc)⟩

theorem plainToken_renderMem (off : Lit) (b : Nat) : PlainToken (renderMem off b) := by
  obtain ⟨-, offset⟩ := plainToken_renderLit off
  obtain ⟨-, base⟩ := plainToken_renderReg b
  refine ⟨by simp [renderMem], ?_⟩
  simp only [renderMem, List.all_append, List.all_cons, offset, base, Bool.true_and]
  decide

theorem plainToken_renderToken {t : Token} (h : t ≠ .malformed) : PlainToken (renderToken t) := by
  cases t with
  | reg n => exact plainToken_renderReg n
  | lit l => exact plainToken_renderLit l
  | mem off b => exact plainToken_renderMem off b
  | malformed => exact absurd rfl h

/-- A plain text is read into the current token. -/
theorem tokensFrom_append {tok : List Char} (h : tok.all plain = true) (cur rest : List Char) :
    tokensFrom cur (tok ++ rest) = tokensFrom (tok.reverse ++ cur) rest := by
  induction tok generalizing cur with
  | nil => rfl
  | cons c cs ih =>
    rw [List.all_cons, Bool.and_eq_true] at h
    obtain ⟨hc, hcs⟩ := h
    rw [List.cons_append, tokensFrom, isSeparator_of_plain hc, if_neg (by decide), ih hcs]
    simp

theorem tokenise_separator {c : Char} (h : isSeparator c = true) (rest : List Char) :
    tokenise (c :: rest) = tokenise rest := by
  simp [tokenise, tokensFrom, h]

theorem tokenise_append_separator {tok : List Char} (h : PlainToken tok) {c : Char} (hc : isSeparator c = true)
    (rest : List Char) : tokenise (tok ++ c :: rest) = tok :: tokenise rest := by
  obtain ⟨nonempty, chars⟩ := h
  rw [tokenise, tokensFrom_append chars]
  simp [tokensFrom, hc, nonempty, tokenise]

theorem tokenise_single {tok : List Char} (h : PlainToken tok) : tokenise tok = [tok] := by
  obtain ⟨nonempty, chars⟩ := h
  have e := tokensFrom_append chars [] []
  rw [List.append_nil] at e
  rw [tokenise, e]
  simp [tokensFrom, nonempty]

theorem joinOperands_cons_cons (t t' : List Char) (ts : List (List Char)) :
    joinOperands (t :: t' :: ts) = t ++ ',' :: ' ' :: joinOperands (t' :: ts) := rfl

theorem tokenise_joinOperands : ∀ {ops : List (List Char)}, (∀ t ∈ ops, PlainToken t) → tokenise (joinOperands ops) = ops
  | [], _ => rfl
  | [t], h => tokenise_single (h t (List.mem_singleton_self t))
  | t :: t' :: ts, h => by
    rw [joinOperands_cons_cons, tokenise_append_separator (h t List.mem_cons_self) (by decide),
      tokenise_separator (by decide), tokenise_joinOperands fun u hu => h u (List.mem_cons_of_mem t hu)]

theorem mem_joinOperands {c : Char} :
    ∀ {ops : List (List Char)}, c ∈ joinOperands ops → c = ',' ∨ c = ' ' ∨ ∃ t ∈ ops, c ∈ t
  | [], h => absurd h (List.not_mem_nil)
  | [t], h => .inr (.inr ⟨t, List.mem_singleton_self t, h⟩)
  | t :: t' :: ts, h => by
    rw [joinOperands_cons_cons, List.mem_append, List.mem_cons, List.mem_cons] at h
    obtain h | h | h | h := h
    · exact .inr (.inr ⟨t, List.mem_cons_self, h⟩)
    · exact .inl h
    · exact .inr (.inl h)
    · exact (mem_joinOperands h).imp_right (.imp_right fun ⟨u, hu, hc⟩ => ⟨u, List.mem_cons_of_mem t hu, hc⟩)

theorem joinOperands_ne_nil {ops : List (List Char)} (nonempty : ops ≠ []) (h : ∀ t ∈ ops, PlainToken t) :
    joinOperands ops ≠ [] := by
  intro empty
  have tokens := tokenise_joinOperands h
  rw [empty] at tokens
  exact nonempty tokens.symm

/-- The last character is that of the last operand. -/
theorem plain_of_getLast?_joinOperands {c : Char} : ∀ {ops : List (List Char)}, (∀ t ∈ ops, PlainToken t) →
    (joinOperands ops).getLast? = some c → plain c = true
  | [t], h, last => by
    obtain ⟨-, chars⟩ := h t (List.mem_singleton_self t)
    exact List.all_eq_true.mp chars c (List.mem_of_getLast? last)
  | t :: t' :: ts, h, last => by
    have rest : ∀ u ∈ t' :: ts, PlainToken u := fun u hu => h u (List.mem_cons_of_mem t hu)
    have split_last : joinOperands (t :: t' :: ts) = (t ++ [',', ' ']) ++ joinOperands (t' :: ts) := by
      simp [joinOperands_cons_cons]
    rw [split_last, List.getLast?_append_of_ne_nil _ (joinOperands_ne_nil (List.cons_ne_nil t' ts) rest)] at last
    exact plain_of_getLast?_joinOperands rest last

/-- The canonical line of a mnemonic with operand tokens. -/
def canonicalLine (k : Mnemonic) (ops : List Token) : List Char := k.text ++ ' ' :: joinOperands (ops.map renderToken)

/-- Every instruction but NOP is rendered as a canonical line of its canonical form (R92, R99). -/
theorem renderLine_eq_canonicalLine {i : Instr} (h : i ≠ .nop) :
    ∃ k ops, renderLine i = canonicalLine k ops ∧ canonical k ops = some i := by
  cases i with
  | nop => exact absurd rfl h
  | add d s t => exact ⟨.add, [.reg d, .reg s, .reg t], rfl, rfl⟩
  | sub d s t => exact ⟨.sub, [.reg d, .reg s, .reg t], rfl, rfl⟩
  | mul d s t => exact ⟨.mul, [.reg d, .reg s, .reg t], rfl, rfl⟩
  | mulu d s t => exact ⟨.mulu, [.reg d, .reg s, .reg t], rfl, rfl⟩
  | div d s t => exact ⟨.div, [.reg d, .reg s, .reg t], rfl, rfl⟩
  | divu d s t => exact ⟨.divu, [.reg d, .reg s, .reg t], rfl, rfl⟩
  | and d s t => exact ⟨.and, [.reg d, .reg s, .reg t], rfl, rfl⟩
  | or d s t => exact ⟨.or, [.reg d, .reg s, .reg t], rfl, rfl⟩
  | xor d s t => exact ⟨.xor, [.reg d, .reg s, .reg t], rfl, rfl⟩
  | nor d s t => exact ⟨.nor, [.reg d, .reg s, .reg t], rfl, rfl⟩
  | sll d s t => exact ⟨.sll, [.reg d, .reg s, .reg t], rfl, rfl⟩
  | srl d s t => exact ⟨.srl, [.reg d, .reg s, .reg t], rfl, rfl⟩
  | addi d s imm => exact ⟨.addi, [.reg d, .reg s, .lit imm], rfl, rfl⟩
  | subi d s imm => exact ⟨.subi, [.reg d, .reg s, .lit imm], rfl, rfl⟩
  | andi d s imm => exact ⟨.andi, [.reg d, .reg s, .lit imm], rfl, rfl⟩
  | ori d s imm => exact ⟨.ori, [.reg d, .reg s, .lit imm], rfl, rfl⟩
  | xori d s imm => exact ⟨.xori, [.reg d, .reg s, .lit imm], rfl, rfl⟩
  | sllImm d s imm => exact ⟨.sll, [.reg d, .reg s, .lit imm], rfl, rfl⟩
  | srlImm d s imm => exact ⟨.srl, [.reg d, .reg s, .lit imm], rfl, rfl⟩
  | beq a b tgt => exact ⟨.beq, [.reg a, .reg b, .lit tgt], rfl, rfl⟩
  | bne a b tgt => exact ⟨.bne, [.reg a, .reg b, .lit tgt], rfl, rfl⟩
  | mfhi d => exact ⟨.mfhi, [.reg d], rfl, rfl⟩
  | lw t off b => exact ⟨.lw, [.reg t, .mem off b], rfl, rfl⟩
  | sw t off b => exact ⟨.sw, [.reg t, .mem off b], rfl, rfl⟩
  | li d imm => exact ⟨.li, [.reg d, .lit imm], rfl, rfl⟩
  | lui d imm => exact ⟨.lui, [.reg d, .lit imm], rfl, rfl⟩

section CanonicalLine

variable {k : Mnemonic} {ops : List Token} (nonempty : ops ≠ []) (formed : .malformed ∉ ops)
include formed

theorem plainToken_operands : ∀ t ∈ ops.map renderToken, PlainToken t := by
  intro t ht
  obtain ⟨op, hop, rfl⟩ := List.mem_map.mp ht
  exact plainToken_renderToken (ne_of_mem_of_not_mem hop formed)

/-- A canonical line is split back into its tokens (R83). -/
theorem tokenise_canonicalLine : tokenise (canonicalLine k ops) = k.text :: ops.map renderToken := by
  rw [canonicalLine, tokenise_append_separator (plainToken_text k) (by decide),
    tokenise_joinOperands (plainToken_operands formed)]

theorem classify_operands : (ops.map renderToken).map classify = ops := by
  rw [List.map_map]
  exact (List.map_congr_left fun t ht => classify_renderToken (ne_of_mem_of_not_mem ht formed)).trans ops.map_id

/-- Apart from its separators a canonical line has plain characters only. -/
theorem plain_of_mem_canonicalLine {c : Char} (h : c ∈ canonicalLine k ops) : c = ',' ∨ c = ' ' ∨ plain c = true := by
  obtain ⟨-, chars⟩ := plainToken_text k
  rw [canonicalLine, List.mem_append, List.mem_cons] at h
  obtain h | h | h := h
  · exact .inr (.inr (List.all_eq_true.mp chars c h))
  · exact .inr (.inl h)
  · obtain h | h | ⟨t, ht, h⟩ := mem_joinOperands h
    · exact .inl h
    · exact .inr (.inl h)
    · obtain ⟨-, chars⟩ := plainToken_operands formed t ht
      exact .inr (.inr (List.all_eq_true.mp chars c h))

include nonempty

theorem trimmed_canonicalLine : Trimmed (canonicalLine k ops) := by
  obtain ⟨text, chars⟩ := plainToken_text k
  have operands := plainToken_operands formed
  have tail : joinOperands (ops.map renderToken) ≠ [] := joinOperands_ne_nil (by simpa using nonempty) operands
  rintro c (first | last)
  · rw [canonicalLine, List.head?_append_of_ne_nil _ text] at first
    exact isSpace_of_plain (List.all_eq_true.mp chars c (List.mem_of_mem_head? first))
  · rw [canonicalLine, List.append_cons, List.getLast?_append_of_ne_nil _ tail] at last
    exact isSpace_of_plain (plain_of_getLast?_joinOperands operands last)

theorem normal_canonicalLine : Normal (canonicalLine k ops) where
  no_comment h := by
    obtain h | h | h := plain_of_mem_canonicalLine formed h
    · exact absurd h (by decide)
    · exact absurd h (by decide)
    · exact ne_numberSign_of_plain h rfl
  no_lower c h := by
    obtain rfl | rfl | h := plain_of_mem_canonicalLine formed h
    · rfl
    · rfl
    · exact isLower_of_plain h
  trimmed := trimmed_canonicalLine nonempty formed

end CanonicalLine

/-- A canonical line decodes to its canonical form. -/
theorem decodeText_canonicalLine {k : Mnemonic} {ops : List Token} {i : Instr} (h : canonical k ops = some i) :
    decodeText (canonicalLine k ops) = .instr i := by
  obtain ⟨-, formed⟩ := operands_of_canonical h
  rw [decodeText, if_neg (by simp [canonicalLine]), tokenise_canonicalLine formed]
  exact decodeTokens_of_canonical (by rwa [classify_operands formed])

end Sys2Proof

namespace Sys2Proof.Claims

open Sys2Proof.Machine

/-- Settles O3: the line of NOP is blank, every other is the canonical line of a canonical form. -/
theorem textDecodesWhatRenderWrites : Obligations.TextDecodesWhatRenderWrites := by
  intro i
  by_cases hi : i = .nop
  · rw [hi]
    exact ⟨rfl, rfl⟩
  · obtain ⟨k, ops, line, form⟩ := renderLine_eq_canonicalLine hi
    obtain ⟨nonempty, formed⟩ := operands_of_canonical form
    rw [line]
    exact ⟨normalise_of_normal (normal_canonicalLine nonempty formed), decodeText_canonicalLine form⟩

/-- Settles O6: the kinds decide whether there is a canonical form; where there is none, the three tests in their order. -/
theorem unknownAndRefusedLines : Obligations.UnknownAndRefusedLines := by
  refine ⟨fun m ops h => decodeTokens_of_unknown h ops, fun k ops => ⟨fun h => ?_, fun h bad => ?_, fun h good shape => ?_,
    fun h good shape => ?_⟩⟩
  · obtain ⟨i, form⟩ := (exists_canonical_iff k _).mpr h
    exact ⟨i, decodeTokens_of_canonical form⟩
  · rw [decodeTokens_of_kinds_not_mem h, refusalReason_of_malformed bad]
  · rw [decodeTokens_of_kinds_not_mem h, refusalReason_of_shape_ne good shape]
  · rw [decodeTokens_of_kinds_not_mem h, refusalReason_of_shape_eq good shape]

/-- Settles O7: four hexadecimal digits spell a 16-bit number. -/
theorem literalKeepsFirstFourDigits : Obligations.LiteralKeepsFirstFourDigits := by
  refine fun tok => ⟨fun nonempty digits => ⟨_, literalToken_of_digits nonempty digits, ?_, ?_, ?_⟩, literalToken_eq_none⟩
  · exact Nat.mod_eq_of_lt (numeral_take_four_lt digits)
  · exact decide_eq_true_iff
  · simp [literalReports]

/-- Settles O8: what is trimmed away from a line, and that nothing can be trimmed from what is left. -/
theorem normalisedLineIsFixed : Obligations.NormalisedLineIsFixed := by
  refine ⟨fun p body q comment hp hq uncommented trimmed => ?_, fun line => ?_⟩
  · have no_comment : '#' ∉ p ++ body ++ q := by
      simp [numberSign_not_mem_of_isSpace hp, uncommented, numberSign_not_mem_of_isSpace hq]
    refine ⟨normalise_surrounded hp hq trimmed (takeWhile_of_no_comment no_comment), ?_⟩
    exact normalise_surrounded hp hq trimmed (takeWhile_comment no_comment comment)
  · have normal := normal_normalise line
    exact ⟨normalise_of_normal normal, normal.no_comment, normal.no_lower, normal.trimmed⟩

/-- Settles O5: the decoder evaluated on each word and line. -/
theorem wordsOfTheSpecDecode : Obligations.WordsOfTheSpecDecode := by
  unfold Obligations.WordsOfTheSpecDecode
  decide

end Sys2Proof.Claims
end

section
/-! PROOF. Under the default policies every stage answers, and hands the instruction in front of it on to the next latch: so a
cycle stops in its decode stage or not at all, and a placed word stands in front of all five stages. -/

namespace Sys2Proof

/-- A blank line decodes to NOP (R81, R222). -/
theorem Line.decode_of_isBlank {l : Line} (h : l.isBlank = true) : l.decode = .instr .nop := by
  cases l with
  | text raw => exact if_pos h
  | image w =>
    obtain rfl : w = 0 := beq_iff_eq.mp h
    rfl

end Sys2Proof

namespace Sys2Proof.Machine

open Claims

variable {i : Instr} {s : State}

/-! ## One stage -/

theorem defaultPolicies_iff (c : Config) : c.defaultPolicies = true ↔
    c.hazardPolicy = .oldValue ∧ c.branchPolicy = .literal ∧ c.shiftPolicy = .low5 ∧ c.divRemainder = .floored := by
  simp [Config.defaultPolicies, and_assoc]

theorem latchSlot_eq_instr {l : Option Record} : latchSlot l = .instr i ↔ latchInstr l = some i := by
  cases l with
  | none => simp [latchSlot, latchInstr]
  | some r => cases hop : r.opcode <;> simp [latchSlot, latchInstr, hop]

theorem executeShift_moves (f : Record → Word) {r : Record} (policy : s.config.shiftPolicy = .low5)
    (hD : s.latchD = some r) : ∃ t, executeShift f s = .next t ∧ t.latchE = some { r with result := f r } := by
  have defined : ¬ shiftRefused s.config r.rt.word = true := by simp [shiftRefused, policy]
  exact ⟨_, by rw [executeShift, hD]; exact if_neg defined, rfl⟩

theorem executeBranch_moves (taken : Record → Bool) {r : Record} (policy : s.config.branchPolicy = .literal)
    (hD : s.latchD = some r) : ∃ t, executeBranch taken s = .next t ∧ t.latchE = some r := by
  simp only [executeBranch, hD, policy, reduceCtorEq, false_and, if_false]
  split
  · exact ⟨_, rfl, rfl⟩
  · exact ⟨_, rfl, rfl⟩

/-- EX answers, and E receives the instruction of D (R125, R126). -/
theorem executePart_moves (policies : s.config.defaultPolicies = true) (h : latchInstr s.latchD = some i) :
    ∃ t, executePart i s = .next t ∧ latchInstr t.latchE = some i := by
  obtain ⟨-, branch, shift, -⟩ := (defaultPolicies_iff _).mp policies
  cases hD : s.latchD with
  | none =>
    rw [hD] at h
    cases h
    exact ⟨_, rfl, rfl⟩
  | some r =>
    rw [hD] at h
    have handed_on {v : Word} : latchInstr (some { r with result := v }) = some i := h
    have shifts (f : Record → Word) : ∃ t, executeShift f s = .next t ∧ latchInstr t.latchE = some i := by
      obtain ⟨t, e, hE⟩ := executeShift_moves f shift hD
      exact ⟨t, e, hE ▸ handed_on⟩
    have branches (taken : Record → Bool) : ∃ t, executeBranch taken s = .next t ∧ latchInstr t.latchE = some i := by
      obtain ⟨t, e, hE⟩ := executeBranch_moves taken branch hD
      exact ⟨t, e, hE ▸ h⟩
    cases i with
    | nop => exact ⟨_, rfl, rfl⟩
    | div => exact ⟨_, by simp only [executePart, executeDiv, hD]; rfl, handed_on⟩
    | divu => exact ⟨_, by simp only [executePart, executeDivu, hD]; rfl, handed_on⟩
    | sll | sllImm => exact shifts sllResult
    | srl | srlImm => exact shifts srlResult
    | beq => exact branches beqTaken
    | bne => exact branches bneTaken
    | lw | sw => exact ⟨_, rfl, hD ▸ h⟩
    | _ => exact ⟨_, executeResult_some _ hD, handed_on⟩

/-- MEM answers, and M receives the instruction of E (R124). -/
theorem memoryPart_moves (h : latchInstr s.latchE = some i) :
    ∃ t, memoryPart i s = .next t ∧ latchInstr t.latchM = some i := by
  cases hE : s.latchE with
  | none =>
    rw [hE] at h
    cases h
    exact ⟨_, rfl, rfl⟩
  | some r =>
    rw [hE] at h
    cases i with
    | nop => exact ⟨_, rfl, rfl⟩
    | lw => exact ⟨_, by simp only [memoryPart, memoryLoad, hE]; rfl, h⟩
    | sw => exact ⟨_, by simp only [memoryPart, memoryStore, hE]; rfl, h⟩
    | _ => exact ⟨_, rfl, hE ▸ h⟩

theorem evalStage_execute_moves (policies : s.config.defaultPolicies = true) (h : latchInstr s.latchD = some i) :
    ∃ t, evalStage .execute s = .next t ∧ latchInstr t.latchE = some i := by
  rw [evalStage_execute, h]
  exact executePart_moves policies h

theorem evalStage_memory_moves (h : latchInstr s.latchE = some i) :
    ∃ t, evalStage .memory s = .next t ∧ latchInstr t.latchM = some i := by
  rw [evalStage_memory, h]
  exact memoryPart_moves h

/-- A stage is `exec` of the instruction in front of it. -/
theorem evalStage_of_slot {k : Stage} (h : slotAt { s with stage := k } = .instr i) :
    evalStage k s = exec i { s with stage := k } := by
  simp only [evalStage, h]

/-- DE answers, and D receives the instruction of the line in F (R127). -/
theorem evalStage_decode_moves (policy : s.config.hazardPolicy = .oldValue) (h : fetchSlot s.latchF = .instr i) :
    ∃ t, evalStage .decode s = .next t ∧ latchInstr t.latchD = some i := by
  rw [evalStage_of_slot (k := .decode) h]
  by_cases hi : i = .nop
  · rw [hi, exec_decode_nop rfl]
    exact ⟨_, rfl, rfl⟩
  · rw [exec_decode rfl hi]
    obtain ⟨empty, -⟩ | ⟨_, -, flagging, -⟩ | ⟨f, -, -, e⟩ := decodeWith_cases i
      (decodeFill i { s with stage := .decode }) (decodeReports i) { s with stage := .decode }
    · have nop : fetchSlot s.latchF = .instr .nop := congrArg fetchSlot empty
      exact absurd (Decoded.instr.inj (h.symm.trans nop)) hi
    · exact absurd (policy.symm.trans flagging) (by simp)
    · exact ⟨_, e, latchInstr_some.mpr (decodeFill_opcode _ _ _)⟩

/-- IF answers, and F receives the line at the pc (R132). -/
theorem evalStage_fetch_moves {l : Line} (line : s.lineAtPc = some l) (h : l.decode = .instr i) :
    ∃ t, evalStage .fetch s = .next t ∧ fetchSlot t.latchF = .instr i := by
  obtain ⟨f, current, e, ⟨no_line, -⟩ | ⟨l', line', -, hf⟩⟩ := fetchLine_eq { s with stage := .fetch }
  · exact absurd (line.symm.trans no_line) (by simp)
  · obtain rfl : l = l' := Option.some.inj (line.symm.trans line')
    refine ⟨_, (evalStage_fetch s).trans e, ?_⟩
    simp only [hf]
    split
    · next blank => rw [← h, l.decode_of_isBlank blank]; rfl
    · exact h

/-! ## A cycle -/

theorem evalStage_execute_answers (policies : s.config.defaultPolicies = true) : ∃ t, evalStage .execute s = .next t := by
  cases h : latchInstr s.latchD with
  | none => exact ⟨_, by rw [evalStage_execute, h]; rfl⟩
  | some i => exact (evalStage_execute_moves policies h).imp fun _ => And.left

theorem evalStage_memory_answers (s : State) : ∃ t, evalStage .memory s = .next t := by
  cases h : latchInstr s.latchE with
  | none => exact ⟨_, by rw [evalStage_memory, h]; rfl⟩
  | some i => exact (evalStage_memory_moves h).imp fun _ => And.left

/-- DE refuses an ill-formed line (R127, log 11). -/
theorem evalStage_decode_of_illFormed {why : IllFormed} (h : fetchSlot s.latchF = .illFormed why) :
    evalStage .decode s = .refused (.illFormedLine why) := by
  have slot : slotAt { s with stage := .decode } = .illFormed why := h
  simp only [evalStage, slot, reduceCtorEq, if_false]

theorem evalStage_decode_answers (policy : s.config.hazardPolicy = .oldValue)
    (formed : ∀ why, fetchSlot s.latchF ≠ .illFormed why) : ∃ t, evalStage .decode s = .next t := by
  cases h : fetchSlot s.latchF with
  | instr i => exact (evalStage_decode_moves policy h).imp fun _ => And.left
  | unknown m =>
    have slot : slotAt { s with stage := .decode } = .unknown m := h
    simp only [evalStage, slot, passUnknown, inStage, decodeUnknown]
    cases s.latchF <;> exact ⟨_, rfl⟩
  | illFormed why => exact absurd h (formed why)

theorem writeBackState_latchF_config (s : State) :
    (writeBackState s).latchF = s.latchF ∧ (writeBackState s).config = s.config := by
  rw [writeBackState_eq]
  exact ⟨rfl, rfl⟩

/-- A cycle comes to its decode stage, with F and the parameters of its start, and after it goes on to its end. -/
theorem evalCycle_eq_decode (policies : s.config.defaultPolicies = true) : ∃ s' rest,
    s'.latchF = s.latchF ∧ s'.config = s.config ∧ evalCycle s = Result.andThen (evalStage .decode s') rest ∧
    ∀ u, ∃ t, rest u = .next t := by
  obtain ⟨latchF₁, config₁⟩ := writeBackState_latchF_config { s with stage := .writeBack }
  obtain ⟨s₂, h₂⟩ := evalStage_memory_answers (writeBackState { s with stage := .writeBack })
  have frame₂ : s₂.latchF = s.latchF ∧ s₂.config = s.config := by
    obtain ⟨_, _, _, rfl, -⟩ := evalStage_memory_effect h₂
    exact ⟨latchF₁, config₁⟩
  obtain ⟨latchF₂, config₂⟩ := frame₂
  obtain ⟨s₃, h₃⟩ := evalStage_execute_answers (s := s₂) (config₂ ▸ policies)
  have frame₃ : s₃.latchF = s.latchF ∧ s₃.config = s.config := by
    obtain ⟨_, _, _, _, rfl, -⟩ := evalStage_execute_effect h₃
    exact ⟨latchF₂, config₂⟩
  obtain ⟨latchF₃, config₃⟩ := frame₃
  refine ⟨s₃, fun u => Result.andThen (evalStage .fetch u) fun u =>
    .next { u with cycles := u.cycles + 1, stage := .writeBack }, latchF₃, config₃, ?_, fun u => ?_⟩
  · simp only [evalCycle, evalStage_writeBack, Result.andThen_next, h₂, h₃]
  · obtain ⟨_, _, fetched, -⟩ := fetchLine_eq { u with stage := .fetch }
    simp only [evalStage_fetch, fetched, Result.andThen_next]
    exact ⟨_, rfl⟩

/-- A cycle over an ill-formed line is refused in its decode stage. -/
theorem evalCycle_of_illFormed {why : IllFormed} (policies : s.config.defaultPolicies = true)
    (h : fetchSlot s.latchF = .illFormed why) : evalCycle s = .refused (.illFormedLine why) := by
  obtain ⟨s', rest, latchF, -, e, -⟩ := evalCycle_eq_decode policies
  rw [e, evalStage_decode_of_illFormed (latchF ▸ h), Result.andThen_refused]

/-- Every other cycle answers (R236). -/
theorem evalCycle_answers (policies : s.config.defaultPolicies = true)
    (formed : ∀ why, fetchSlot s.latchF ≠ .illFormed why) : ∃ t, evalCycle s = .next t := by
  obtain ⟨s', rest, latchF, config, e, answers⟩ := evalCycle_eq_decode policies
  obtain ⟨hazard, -⟩ := (defaultPolicies_iff _).mp (config ▸ policies)
  obtain ⟨u, hu⟩ := evalStage_decode_answers hazard (latchF ▸ formed)
  obtain ⟨t, ht⟩ := answers u
  exact ⟨t, by rw [e, hu, Result.andThen_next, ht]⟩

/-! ## A placed word -/

theorem fetchSlot_afterStage_fetch {l : Line} (line : s.lineAtPc = some l) (h : l.decode = .instr i) :
    fetchSlot (afterStage .fetch s).latchF = .instr i := by
  obtain ⟨t, e, slot⟩ := evalStage_fetch_moves line h
  rwa [afterStage_of_next e]

theorem latchInstr_afterStage_decode (policy : s.config.hazardPolicy = .oldValue) (h : fetchSlot s.latchF = .instr i) :
    latchInstr (afterStage .decode s).latchD = some i := by
  obtain ⟨t, e, slot⟩ := evalStage_decode_moves policy h
  rwa [afterStage_of_next e]

theorem latchInstr_afterStage_execute (policies : s.config.defaultPolicies = true) (h : latchInstr s.latchD = some i) :
    latchInstr (afterStage .execute s).latchE = some i := by
  obtain ⟨t, e, slot⟩ := evalStage_execute_moves policies h
  rwa [afterStage_of_next e]

theorem latchInstr_afterStage_memory (h : latchInstr s.latchE = some i) :
    latchInstr (afterStage .memory s).latchM = some i := by
  obtain ⟨t, e, slot⟩ := evalStage_memory_moves h
  rwa [afterStage_of_next e]

/-- The state from which a pipeline is filled. -/
def emptied (s : State) : State :=
  { s with latchF := none, latchD := none, latchE := none, latchM := none, stage := .writeBack }

/-- A filled pipeline has the instruction of the line at the pc in all four latches. -/
theorem primePipeline_slots {l : Line} (policies : s.config.defaultPolicies = true) (line : s.lineAtPc = some l)
    (h : l.decode = .instr i) :
    fetchSlot (primePipeline s).latchF = .instr i ∧ latchSlot (primePipeline s).latchD = .instr i ∧
      latchSlot (primePipeline s).latchE = .instr i ∧ latchSlot (primePipeline s).latchM = .instr i := by
  obtain ⟨hazard, -⟩ := (defaultPolicies_iff _).mp policies
  simp only [latchSlot_eq_instr]
  have slotF := fetchSlot_afterStage_fetch (s := emptied s) line h
  have slotD := latchInstr_afterStage_decode (s := { emptied s with latchF := (primePipeline s).latchF }) hazard slotF
  have slotE := latchInstr_afterStage_execute (s := { emptied s with latchD := (primePipeline s).latchD }) policies slotD
  have slotM := latchInstr_afterStage_memory (s := { emptied s with latchE := (primePipeline s).latchE }) slotE
  exact ⟨slotF, slotD, slotE, slotM⟩

theorem withFetchWord_toNat (s : State) (w : BitVec 32) : s.withFetchWord 32 w.toNat = primePipeline (placeImage s w) := by
  rw [State.withFetchWord, Nat.mod_eq_of_lt w.isLt, BitVec.ofNat_toNat, BitVec.setWidth_eq]

/-- A core below its ceiling with a line at the pc goes on (R133). -/
theorem haltTest_of_line {l : Line} (below : s.cycles < s.config.ceiling) (line : s.lineAtPc = some l) :
    s.haltTest = false := by
  obtain ⟨-, entry⟩ := State.lineAtPc_eq_some.mp line
  obtain ⟨inside, -⟩ := List.getElem?_eq_some_iff.mp entry
  have not_past : ¬ (s.prog.length : Int) ≤ s.pc := by omega
  simp [State.haltTest, State.drained, below, not_past]

/-- A core with a word placed can run a cycle (log 7). -/
theorem evaluates_primePipeline_placeImage (w : BitVec 32) (ceiling : 0 < s.config.ceiling) :
    Evaluates (primePipeline (placeImage s w)) := by
  refine ⟨?_, haltTest_of_line ?_ (lineAtPc_placeImage s w)⟩
  · rw [primePipeline_runState]
    simp only [placeImage]
    split
    · decide
    · assumption
  · rw [primePipeline_cycles, primePipeline_config]
    simp only [placeImage]
    split
    · exact ceiling
    · omega

end Sys2Proof.Machine

namespace Sys2Proof.Claims

open Sys2Proof.Machine

/-- Settles O18: the first three stages of the cycle answer, and its decode stage is refused. -/
theorem illFormedLineIsRefused : Obligations.IllFormedLineIsRefused := by
  rintro s f why ⟨running, test⟩ policies hF hd
  rw [step_running running test]
  exact evalCycle_of_illFormed policies (by simp only [hF, fetchSlot, hd])

/-- Settles O58: each stage hands the instruction on to the latch it fills, and the next cycle answers. -/
theorem placedWordRunsAtTheNextStep : Obligations.PlacedWordRunsAtTheNextStep := by
  intro s w i hw policies ceiling
  rw [withFetchWord_toNat]
  have line := lineAtPc_placeImage s w
  obtain ⟨slotF, slotD, slotE, slotM⟩ := primePipeline_slots (s := placeImage s w) policies line hw
  have evaluates := evaluates_primePipeline_placeImage w ceiling
  refine ⟨evaluates, slotM, slotE, slotD, slotF, ?_, rfl, rfl, rfl, ?_⟩
  · exact (congrArg (Option.map Line.decode) line).trans (congrArg some hw)
  · rw [step_running evaluates.1 evaluates.2]
    exact evalCycle_answers policies fun why bad => absurd (slotF.symm.trans bad) (by simp)

end Sys2Proof.Claims
end

section
/-! PROOF. The engine: fetch and write-back of every instruction, the cycle as `exec` of what stands in front of its stages,
and the halt test, which bounds every run. -/

namespace Sys2Proof.Machine

open Claims

variable {i : Instr} {s t : State}

/-! ## The stages by the instruction in front of them -/

theorem Result.andThen_congr {r : Result} {f g : State → Result} (h : ∀ s, r = .next s → f s = g s) :
    r.andThen f = r.andThen g := by
  cases r with
  | next s => exact h s rfl
  | fault | refused => rfl

/-- Every stage but IF is what `runSlot` does with the instruction in front of it. -/
theorem evalStage_eq_runSlot {k : Stage} (hk : k ≠ .fetch) (s : State) :
    evalStage k s = runSlot (slotAt { s with stage := k }) { s with stage := k } := by
  unfold evalStage
  cases slotAt { s with stage := k } with
  | instr | unknown => rfl
  | illFormed why => exact if_neg hk

/-- A stage and what follows it, by the instruction in front of it. -/
theorem evalStage_andThen {k : Stage} (hk : k ≠ .fetch) {slot : Decoded} (front : slotAt { s with stage := k } = slot)
    {f g : State → Result} (rest : ∀ t, evalStage k s = .next t → f t = g t) :
    (evalStage k s).andThen f = (runSlot slot { s with stage := k }).andThen g := by
  rw [← front, ← evalStage_eq_runSlot hk]
  exact Result.andThen_congr rest

/-- Only NOP, SW, BEQ and BNE are outside the write-back set (R123). -/
theorem writesBack_eq_false_iff (i : Instr) : i.writesBack = false ↔
    i = .nop ∨ (∃ t off b, i = .sw t off b) ∨ (∃ a b tgt, i = .beq a b tgt) ∨ ∃ a b tgt, i = .bne a b tgt := by
  cases i <;> simp [Instr.writesBack]

/-! ## The halt test -/

theorem State.haltTest_iff (s : State) : s.haltTest = true ↔
    s.config.ceiling ≤ s.cycles ∨ ((s.prog.length : Int) ≤ s.pc ∧ s.latchesEmpty = true) := by
  simp [State.haltTest, State.drained, State.latchesEmpty, and_assoc]

theorem State.drained_iff (s : State) : s.drained = true ↔ (s.prog.length : Int) ≤ s.pc ∧ s.latchesEmpty = true := by
  simp [State.drained, State.latchesEmpty, and_assoc]

/-! ## Several calls -/

/-- Calls from a halted core only empty the report list (R136). -/
theorem advanceCycles_halted (n : Nat) (h : s.runState = .halted) :
    advanceCycles (n + 1) s = .next { s with reports := [] } := by
  induction n generalizing s with
  | zero => rw [advanceCycles_succ, step_halted h, Result.andThen_next, advanceCycles_zero]
  | succ n ih =>
    rw [advanceCycles_succ, step_halted h, Result.andThen_next]
    exact ih (s := { s with reports := [] }) h

theorem runState_of_advanceCycles_halted {n : Nat} (halted : s.runState = .halted) (h : advanceCycles n s = .next t) :
    t.runState = .halted := by
  cases n with
  | zero =>
    cases h
    exact halted
  | succ n =>
    rw [advanceCycles_halted n halted] at h
    cases h
    exact halted

/-- A step that leaves the core running was a cycle below the ceiling (R133, R134). -/
theorem cycleEffect_of_running (h : step s = .next t) (running : t.runState ≠ .halted) :
    s.cycles < s.config.ceiling ∧ CycleEffect s t := by
  have went_on : ¬ (s.runState = .halted ∨ s.haltTest = true) := mt (step_halted_iff h).mpr running
  obtain ⟨hs, test⟩ := not_or.mp went_on
  have below : ¬ s.config.ceiling ≤ s.cycles := fun reached => test (s.haltTest_iff.mpr (.inl reached))
  rw [step_running hs (Bool.eq_false_of_not_eq_true test)] at h
  exact ⟨Nat.lt_of_not_le below, evalCycle_effect h⟩

/-- Calls that leave the core running were cycles, each counted, up to the ceiling at most (R134). -/
theorem cycles_add_le_of_advanceCycles {n : Nat} (h : advanceCycles n s = .next t) (running : t.runState ≠ .halted) :
    n = 0 ∨ s.cycles + n ≤ s.config.ceiling := by
  induction n generalizing s with
  | zero => exact .inl rfl
  | succ n ih =>
    rw [advanceCycles_succ] at h
    obtain ⟨u, hu, h⟩ := Result.andThen_eq_next.mp h
    have running_u : u.runState ≠ .halted := fun halted => running (runState_of_advanceCycles_halted halted h)
    obtain ⟨below, effect⟩ := cycleEffect_of_running hu running_u
    have rest := ih h
    rw [effect.cycles, effect.config] at rest
    omega

end Sys2Proof.Machine

namespace Sys2Proof.Claims

open Sys2Proof.Machine

/-- Settles O15, by induction on the calls: each leaves a halted core as it is. -/
theorem haltedIsTerminal : Obligations.HaltedIsTerminal := fun n _ h => advanceCycles_halted n h

/-- Settles O16: a core still running has counted every call, which the ceiling does not allow. -/
theorem ceilingBoundsEveryRun : Obligations.CeilingBoundsEveryRun := by
  intro n s t many h
  by_contra running
  have few := cycles_add_le_of_advanceCycles h running
  omega

/-- Settles O13: IF is the same for every instruction, and reads the line at the pc if there is one. -/
theorem fetchStage : Obligations.FetchStage := by
  intro i s stage
  rw [exec_fetch stage]
  refine ⟨fun l h0 hl => ?_, fun outside => ?_⟩
  · have line : s.lineAtPc = some l := State.lineAtPc_eq_some.mpr ⟨h0, hl⟩
    simp only [fetchLine, line]
  · have line : s.lineAtPc = none := State.lineAtPc_eq_none.mpr outside
    simp only [fetchLine, line]

/-- Settles O14: the halt test is the disjunction of the statement; a step that it does not stop is a cycle. -/
theorem haltTransitionAndItsTest : Obligations.HaltTransitionAndItsTest := by
  intro s running
  refine ⟨fun test => ?_, fun test t h => ?_⟩
  · refine ⟨_, step_halting running (s.haltTest_iff.mpr test), rfl, rfl, rfl, rfl, rfl, rfl, rfl, rfl, rfl, rfl, rfl, rfl,
      fun drained => ?_, fun drained => ?_⟩
    · exact congrArg some (if_pos (s.drained_iff.mpr drained))
    · exact congrArg some (if_neg (mt s.drained_iff.mp drained))
  · rw [step_running running (Bool.eq_false_of_not_eq_true (mt s.haltTest_iff.mp test))] at h
    exact (evalCycle_effect h).runState

/-- Settles O39: the write-back set leaves out the four kinds of instruction, and unknown mnemonics have no write-back. -/
theorem writeBackSet : Obligations.WriteBackSet := by
  intro i s stage
  rw [exec_writeBack stage, writeBackResult_eq]
  refine ⟨fun latch => ?_, fun m => ?_, fun outside => ?_, fun nop sw beq bne r latch => ?_⟩
  · rw [latch, ite_self]
  · simp only [passUnknown, inStage, stage, writeBackNone]
  · rw [(writesBack_eq_false_iff i).mpr outside]
    rfl
  · have set : i.writesBack = true := by
      by_contra outside
      obtain h | ⟨t, off, b, h⟩ | ⟨a, b, tgt, h⟩ | ⟨a, b, tgt, h⟩ :=
        (writesBack_eq_false_iff i).mp (Bool.eq_false_of_not_eq_true outside)
      · exact nop h
      · exact sw t off b h
      · exact beq a b tgt h
      · exact bne a b tgt h
    rw [if_pos set, latch]

/-- Settles O12: no stage before it in the cycle changes the latch a stage reads. -/
theorem cycleRunsTheDecodedInstructions : Obligations.CycleRunsTheDecodedInstructions := by
  rintro s ⟨running, test⟩
  rw [step_running running test, evalCycle]
  refine evalStage_andThen (by decide) rfl fun s₁ h₁ => ?_
  rw [evalStage_writeBack, writeBackState_eq] at h₁
  cases h₁
  refine evalStage_andThen (by decide) rfl fun s₂ h₂ => ?_
  obtain ⟨m, mem, ks₂, rfl, -⟩ := evalStage_memory_effect h₂
  refine evalStage_andThen (by decide) rfl fun s₃ h₃ => ?_
  obtain ⟨e, hi, pc, ks₃, rfl, -⟩ := evalStage_execute_effect h₃
  refine evalStage_andThen (by decide) rfl fun s₄ _ => ?_
  congr 1
  rw [evalStage_fetch]
  split
  · exact (exec_fetch rfl .nop).symm
  · exact (exec_fetch rfl _).symm
  · rfl

end Sys2Proof.Claims
end

section
/-! PROOF. What one instruction leaves, stage by stage: `effect` is taken apart into a word, HI and memory, EX and MEM are shown
to deliver their parts of them from the operands in the record, and DE to read these after the same cycle's write-back. -/

namespace Sys2Proof.Machine

open Claims

variable {i : Instr} {s t : State} {x : Nat → Word} {r : Record}

/-! ## The execute rules on 32-bit words -/

theorem u32_sub (a b : Int) : u32 (a - b) = u32 a - u32 b := by
  simp only [u32, Int.sub_eq_add_neg, BitVec.ofInt_add, BitVec.ofInt_neg, BitVec.sub_eq_add_neg]

theorem u32_sext16_setWidth (v : Imm16) : u32 (sext16 (v.setWidth 32)) = v.signExtend 32 := by
  simp [u32, sext16, BitVec.signExtend]

theorem zext16_setWidth (v : Imm16) : zext16 (v.setWidth 32) = v.zeroExtend 32 := by
  simp [zext16]

section Results

variable {b : Word} (h : r.rt = .value b)

include h

theorem addResult_eq : addResult r = r.rs + b := by
  simp [addResult, u32, h, Rt.word, BitVec.ofInt_add]

theorem subResult_eq : subResult r = r.rs - b := by
  rw [subResult, u32_sub]
  simp [u32, h, Rt.word]

theorem mulResult_eq : mulResult r = r.rs * b := by
  simp [mulResult, u32, s32, h, Rt.word, BitVec.ofInt_mul]

theorem muluResult_eq : muluResult r = r.rs * b := by
  simp [muluResult, u32, h, Rt.word, BitVec.ofInt_mul]

theorem divResult_eq : divResult r = if b = 0 then 0 else BitVec.ofInt 32 (Int.fdiv r.rs.toInt b.toInt) := by
  simp [divResult, u32, s32, floorQuotient, h, Rt.word, ← BitVec.toInt_inj]

theorem divHigh_eq {c : Config} (policy : c.divRemainder = .floored) :
    divHigh c r = if b = 0 then 0 else BitVec.ofInt 32 (Int.fmod r.rs.toInt b.toInt) := by
  simp [divHigh, policy, u32, s32, floorQuotient, h, Rt.word, Int.fmod_def, mul_comm, ← BitVec.toInt_inj]

theorem divuResult_eq : divuResult r = r.rs / b := by
  rw [BitVec.udiv_def]
  by_cases zero : b.toNat = 0
  · simp [divuResult, h, Rt.word, zero]
  · simp only [divuResult, h, Rt.word, if_neg zero, u32, BitVec.ofInt_natCast]

theorem divisionReports_eq : divisionReports r = if b = 0 then [.divisionByZero] else [] := by
  simp [divisionReports, h, Rt.word]

theorem andResult_eq : andResult r = r.rs &&& b := by simp only [andResult, h, Rt.word]
theorem orResult_eq : orResult r = r.rs ||| b := by simp only [orResult, h, Rt.word]
theorem xorResult_eq : xorResult r = r.rs ^^^ b := by simp only [xorResult, h, Rt.word]
theorem norResult_eq : norResult r = ~~~(r.rs ||| b) := by simp only [norResult, h, Rt.word]

theorem sllResult_eq : sllResult r = r.rs <<< (b.toNat % 32) := by
  simp [sllResult, shiftAmount, field, h, Rt.word]

theorem srlResult_eq : srlResult r = r.rs >>> (b.toNat % 32) := by
  simp [srlResult, shiftAmount, field, h, Rt.word]

end Results

section LiteralResults

variable {v : Imm16} (h : r.rt = .value (v.setWidth 32))

include h

theorem addiResult_eq : addiResult r = r.rs + v.signExtend 32 := by
  rw [← u32_sext16_setWidth]
  simp [addiResult, u32, h, Rt.word, BitVec.ofInt_add]

theorem subiResult_eq : subiResult r = r.rs - v.signExtend 32 := by
  rw [← u32_sext16_setWidth, subiResult, u32_sub]
  simp [u32, h, Rt.word]

theorem andiResult_eq : andiResult r = r.rs &&& v.zeroExtend 32 := by
  simp only [andiResult, h, Rt.word, zext16_setWidth]

theorem oriResult_eq : oriResult r = r.rs ||| v.zeroExtend 32 := by
  simp only [oriResult, h, Rt.word, zext16_setWidth]

theorem xoriResult_eq : xoriResult r = r.rs ^^^ v.zeroExtend 32 := by
  simp only [xoriResult, h, Rt.word, zext16_setWidth]

end LiteralResults

/-! ## What an instruction leaves: a word for `rd`, HI, memory -/

/-- The word `effect` writes to the register of token 1, for an instruction of the write-back set. -/
def written (x : Nat → Word) (i : Instr) (s : State) : Word :=
  match i with
  | .nop | .sw _ _ _ | .beq _ _ _ | .bne _ _ _ => 0
  | .add _ a b => x a + x b
  | .addi _ a imm => x a + imm.value.signExtend 32
  | .sub _ a b => x a - x b
  | .subi _ a imm => x a - imm.value.signExtend 32
  | .mul _ a b | .mulu _ a b => x a * x b
  | .div _ a b => if x b = 0 then 0 else BitVec.ofInt 32 (Int.fdiv (x a).toInt (x b).toInt)
  | .divu _ a b => x a / x b
  | .and _ a b => x a &&& x b
  | .andi _ a imm => x a &&& imm.value.zeroExtend 32
  | .or _ a b => x a ||| x b
  | .ori _ a imm => x a ||| imm.value.zeroExtend 32
  | .xor _ a b => x a ^^^ x b
  | .xori _ a imm => x a ^^^ imm.value.zeroExtend 32
  | .nor _ a b => ~~~(x a ||| x b)
  | .sll _ a b => x a <<< ((x b).toNat % 32)
  | .sllImm _ a imm => x a <<< (imm.value.toNat % 32)
  | .srl _ a b => x a >>> ((x b).toNat % 32)
  | .srlImm _ a imm => x a >>> (imm.value.toNat % 32)
  | .mfhi _ => s.hi
  | .lw _ off b => s.readWord ((x b).toNat + off.value.toInt)
  | .li _ imm => imm.value.signExtend 32
  | .lui _ imm => imm.value.zeroExtend 32 <<< 16

/-- What `effect` leaves in HI: DIV's remainder. -/
def highAfter (x : Nat → Word) (i : Instr) (s : State) : Word :=
  match i with
  | .div _ a b => if x b = 0 then 0 else BitVec.ofInt 32 (Int.fmod (x a).toInt (x b).toInt)
  | _ => s.hi

/-- The memory `effect` leaves: with the word of SW stored. -/
def memoryAfter (x : Nat → Word) (i : Instr) (s : State) : Memory :=
  match i with
  | .sw t off b => s.storeWord ((x b).toNat + off.value.toInt) (x t)
  | _ => s.mem

theorem effect_regs (x : Nat → Word) (i : Instr) (s : State) : (effect x i s).regs =
    if i.writesBack = true then (s.writeReg i.token1 (written x i s)).regs else s.regs := by
  cases i <;> rfl

theorem effect_hi (x : Nat → Word) (i : Instr) (s : State) : (effect x i s).hi = highAfter x i s := by
  cases i <;> simp [effect, highAfter]

theorem effect_mem (x : Nat → Word) (i : Instr) (s : State) : (effect x i s).mem = memoryAfter x i s := by
  cases i <;> simp [effect, memoryAfter]

/-- The reports of EX (R234). -/
def executeReports (x : Nat → Word) : Instr → List Report
  | .div _ _ b | .divu _ _ b => if x b = 0 then [.divisionByZero] else []
  | _ => []

/-- The reports of MEM (R233). -/
def memoryReports (x : Nat → Word) (i : Instr) (s : State) : List Report :=
  match i with
  | .lw _ off b | .sw _ off b => s.accessReports ((x b).toNat + off.value.toInt)
  | _ => []

/-- The reports of WB (R23). -/
def writeBackReports (i : Instr) : List Report := if i.writesBack = true then registerReports i.token1 else []

@[simp] theorem decodeReports_nop : decodeReports .nop = [] := rfl
@[simp] theorem executeReports_nop (x : Nat → Word) : executeReports x .nop = [] := rfl
@[simp] theorem memoryReports_nop (x : Nat → Word) (s : State) : memoryReports x .nop s = [] := rfl
@[simp] theorem writeBackReports_nop : writeBackReports .nop = [] := rfl

/-- The reports of an instruction's life, stage by stage. -/
theorem lifeReports_eq (x : Nat → Word) (i : Instr) (s : State) : lifeReports x i s =
    decodeReports i ++ executeReports x i ++ memoryReports x i s ++ writeBackReports i := by
  cases i <;> simp [lifeReports, executeReports, memoryReports, writeBackReports]

section Congruence

variable (config : t.config = s.config) (mem : t.mem = s.mem)

include config mem

theorem State.readWord_congr (a : Int) : t.readWord a = s.readWord a := by
  simp only [State.readWord, config, mem]

theorem State.storeWord_congr (a : Int) (w : Word) : t.storeWord a w = s.storeWord a w := by
  simp only [State.storeWord, config, mem]

theorem memoryAfter_congr (x : Nat → Word) (i : Instr) : memoryAfter x i t = memoryAfter x i s := by
  cases i <;> simp only [memoryAfter, mem, State.storeWord_congr config mem]

end Congruence

theorem highAfter_congr (hi : t.hi = s.hi) (x : Nat → Word) (i : Instr) : highAfter x i t = highAfter x i s := by
  cases i <;> simp only [highAfter, hi]

theorem memoryReports_congr (config : t.config = s.config) (x : Nat → Word) (i : Instr) :
    memoryReports x i t = memoryReports x i s := by
  cases i <;> simp only [memoryReports, State.accessReports, config]

/-! ## Records -/

theorem operandsRead_result (operands : OperandsRead x i r) (w : Word) : OperandsRead x i { r with result := w } := by
  cases i <;> exact operands

theorem operandsRead_decodeFill (i : Instr) (s : State) (r : Record) : OperandsRead s.readReg i (decodeFill i s r) := by
  cases i <;> simp [OperandsRead, decodeFill, Lit.word, State.effectiveAddress]

theorem decodeFill_congr (regs : t.regs = s.regs) (i : Instr) (r : Record) : decodeFill i t r = decodeFill i s r := by
  cases i <;> simp only [decodeFill, State.effectiveAddress, State.readReg_congr regs]

/-- LW, the one instruction whose word comes from MEM (R124). -/
def isLoad : Instr → Bool
  | .lw _ _ _ => true
  | _ => false

/-- LW's word depends on memory. -/
theorem written_congr_load (load : isLoad i = true) (config : t.config = s.config) (mem : t.mem = s.mem)
    (x : Nat → Word) : written x i t = written x i s := by
  cases i
  case lw => exact State.readWord_congr config mem _
  all_goals cases load

/-- Every other word depends on HI at most. -/
theorem written_congr_hi (other : isLoad i = false) (hi : t.hi = s.hi) (x : Nat → Word) :
    written x i t = written x i s := by
  cases i
  case lw => cases other
  all_goals simp only [written, hi]

/-- The result field EX leaves (R125, R126). -/
def resultAfterExecute (x : Nat → Word) (i : Instr) (s : State) (r : Record) : Word :=
  match i with
  | .lw _ _ _ | .sw _ _ _ => r.result
  | _ => written x i s

/-- What EX leaves is the word to be written, but for LW. -/
theorem resultAfterExecute_eq (set : i.writesBack = true) (other : isLoad i = false) (x : Nat → Word) (s : State)
    (r : Record) : resultAfterExecute x i s r = written x i s := by
  cases i
  case sw => cases set
  case lw => cases other
  all_goals rfl

/-- The result field MEM leaves (R124). -/
def resultAfterMemory (x : Nat → Word) (i : Instr) (s : State) (r : Record) : Word :=
  if isLoad i = true then written x i s else r.result

/-! ## The stages -/

theorem executeResult_value {f : Record → Word} {w : Word} (hD : s.latchD = some r) (value : f r = w) :
    executeResult f s = .next ({ s with latchE := some { r with result := w }, hi := s.hi }.report []) := by
  rw [executeResult_some f hD, value, State.report_nil]

theorem executeShift_value {f : Record → Word} {w : Word} (policy : s.config.shiftPolicy = .low5)
    (hD : s.latchD = some r) (value : f r = w) :
    executeShift f s = .next ({ s with latchE := some { r with result := w }, hi := s.hi }.report []) := by
  rw [State.report_nil, ← value]
  simp [executeShift, hD, shiftRefused, policy]

/-- EX computes the word of every instruction but LW, and DIV's HI (R125, R126). -/
theorem executePart_known (policies : s.config.defaultPolicies = true) (operation : i ≠ .nop)
    (straight : i.isBranch = false) (hD : s.latchD = some r) (operands : OperandsRead x i r) :
    executePart i s = .next ({ s with
      latchE := some { r with result := resultAfterExecute x i s r }
      hi := highAfter x i s }.report (executeReports x i)) := by
  obtain ⟨-, -, low5, floored⟩ := (defaultPolicies_iff _).mp policies
  cases i with
  | nop => exact absurd rfl operation
  | beq | bne => cases straight
  | lw | sw => simp only [executePart, executePass, hD]; exact congrArg _ (State.report_nil _).symm
  | mfhi => exact executeResult_value hD rfl
  | li =>
    obtain ⟨-, ha⟩ := operands
    exact executeResult_value hD (by rw [liResult, ha, u32_sext16_setWidth]; rfl)
  | lui =>
    obtain ⟨-, ha⟩ := operands
    exact executeResult_value hD (by rw [luiResult, ha, zext16_setWidth]; rfl)
  | div =>
    obtain ⟨-, -, ha, hb⟩ := operands
    simp only [executePart, executeDiv, hD, divResult_eq hb, divHigh_eq hb floored, divisionReports_eq hb, ha]
    rfl
  | divu =>
    obtain ⟨-, -, ha, hb⟩ := operands
    simp only [executePart, executeDivu, hD, divuResult_eq hb, divisionReports_eq hb, ha]
    rfl
  | add | sub | mul | mulu | and | or | xor | nor =>
    obtain ⟨-, -, ha, hb⟩ := operands
    refine executeResult_value hD ?_
    simp only [addResult_eq hb, subResult_eq hb, mulResult_eq hb, muluResult_eq hb, andResult_eq hb, orResult_eq hb,
      xorResult_eq hb, norResult_eq hb, ha]
    rfl
  | addi | subi | andi | ori | xori =>
    obtain ⟨-, -, ha, hb⟩ := operands
    refine executeResult_value hD ?_
    simp only [addiResult_eq hb, subiResult_eq hb, andiResult_eq hb, oriResult_eq hb, xoriResult_eq hb, ha]
    rfl
  | sll | srl =>
    obtain ⟨-, -, ha, hb⟩ := operands
    refine executeShift_value low5 hD ?_
    simp only [sllResult_eq hb, srlResult_eq hb, ha]
    rfl
  | sllImm | srlImm =>
    obtain ⟨-, -, ha, hb⟩ := operands
    refine executeShift_value low5 hD ?_
    simp only [sllResult_eq hb, srlResult_eq hb, ha]
    rfl

/-- MEM delivers the word of LW and stores that of SW (R124). -/
theorem memoryPart_known (operation : i ≠ .nop) (hE : s.latchE = some r) (operands : OperandsRead x i r) :
    memoryPart i s = .next ({ s with
      latchM := some { r with result := resultAfterMemory x i s r }
      mem := memoryAfter x i s }.report (memoryReports x i s)) := by
  cases i with
  | nop => exact absurd rfl operation
  | lw =>
    obtain ⟨-, address, -, -⟩ := operands
    simp only [memoryPart, memoryLoad, hE, address]
    rfl
  | sw =>
    obtain ⟨-, address, -, value⟩ := operands
    simp only [memoryPart, memoryStore, hE, memoryAfter, memoryReports, ← address, ← value]
    rfl
  | _ =>
    simp only [memoryPart, memoryPass, hE]
    exact congrArg _ (State.report_nil _).symm

/-! ## Write-back and decode -/

theorem writeBackState_none (hM : s.latchM = none) : writeBackState s = s := by
  simp only [writeBackState, hM]

theorem writeBackState_known (hM : s.latchM = some r) (hop : r.opcode = .known i) :
    writeBackState s = if i.writesBack = true then s.writeReg r.rd r.result else s := by
  simp only [writeBackState, hM, hop]

/-- The read port after a write: the word written at an index from 1 to 31, else the old value (R22, R23). -/
theorem State.readReg_writeReg (s : State) (j k : Nat) (v : Word) :
    (s.writeReg j v).readReg k = if j = k ∧ 0 < k ∧ k < 32 then v else s.readReg k := by
  split
  · next h =>
    obtain ⟨rfl, positive, small⟩ := h
    exact s.readReg_writeReg_self (Nat.ne_of_gt positive) small v
  · next h =>
    by_contra changed
    obtain ⟨rfl, -⟩ := State.eq_of_readReg_writeReg_ne changed
    obtain ⟨rfl, e⟩ | ⟨small, nonzero, -⟩ | ⟨-, e⟩ := s.writeReg_cases j v
    · exact changed (by rw [e])
    · exact h ⟨rfl, Nat.pos_of_ne_zero nonzero, small⟩
    · exact changed (by rw [e, State.readReg_report])

/-- The registers after write-back, as decode reads them in the same cycle (R138). -/
theorem readReg_writeBackState (s : State) (k : Nat) : (writeBackState s).readReg k = afterWriteBack s k := by
  cases hM : s.latchM with
  | none => rw [writeBackState_none hM, afterWriteBack, hM]
  | some r =>
    cases hop : r.opcode with
    | unknown m => simp only [writeBackState, afterWriteBack, hM, hop]
    | known i =>
      rw [writeBackState_known hM hop]
      simp only [afterWriteBack, hM, hop]
      by_cases set : i.writesBack = true
      · simp only [set, if_true, true_and, State.readReg_writeReg]
      · simp only [set, if_false, false_and, Bool.false_eq_true]

/-- DE of a line with an instruction: a flagged read, or the record with the reports of its reads. -/
theorem evalStage_decode_instr {f : FetchRecord} (hF : s.latchF = some f) (hd : f.raw.decode = .instr i)
    (operation : i ≠ .nop) : evalStage .decode s =
      if s.config.hazardPolicy = .fault ∧ s.hazard i = true then .fault .registerHazard
      else .next ({ s with stage := .decode, latchD := some (decodeFill i s (f.fresh (.known i))) }.report
        (decodeReports i)) := by
  rw [evalStage_of_slot (i := i) (by simp only [slotAt, hF, hd]), exec_decode rfl operation,
    ← decodeFill_congr (s := s) (t := { s with stage := .decode }) rfl]
  simp only [decodeWith, hF]
  rfl

theorem eq_of_evalStage_decode {f : FetchRecord} (h : evalStage .decode s = .next t) (hF : s.latchF = some f)
    (hd : f.raw.decode = .instr i) (operation : i ≠ .nop) :
    t = { s with stage := .decode, latchD := some (decodeFill i s (f.fresh (.known i))) }.report (decodeReports i) := by
  rw [evalStage_decode_instr hF hd operation] at h
  split at h
  · cases h
  · exact (Host.Outcome.next.inj h).symm

@[simp] theorem decodeFill_address (i : Instr) (s : State) (r : Record) : (decodeFill i s r).address = r.address := by
  cases i <;> rfl

/-- The decode stage of a cycle finds the line of F, and the registers as write-back leaves them (R120, R138). -/
theorem evalCycle_decode (h : evalCycle s = .next t) : ∃ s₃ s₄, evalStage .decode s₃ = .next s₄ ∧
    s₃.latchF = s.latchF ∧ s₃.readReg = afterWriteBack s ∧ t.latchD = s₄.latchD := by
  obtain ⟨s₂, s₃, s₄, s₅, h₂, h₃, h₄, h₅, rfl⟩ := evalCycle_next h
  have written : (writeBackState { s with stage := .writeBack }).readReg = afterWriteBack s :=
    funext (readReg_writeBackState { s with stage := .writeBack })
  refine ⟨s₃, s₄, h₄, ?_, ?_, ?_⟩
  · obtain ⟨_, _, _, rfl, -⟩ := evalStage_memory_effect h₂
    obtain ⟨_, _, _, _, rfl, -⟩ := evalStage_execute_effect h₃
    exact (writeBackState_latchF_config _).1
  · obtain ⟨_, _, _, rfl, -⟩ := evalStage_memory_effect h₂
    obtain ⟨_, _, _, _, rfl, -⟩ := evalStage_execute_effect h₃
    exact written
  · obtain ⟨_, _, rfl, -⟩ := evalStage_fetch_effect h₅
    rfl

end Sys2Proof.Machine

namespace Sys2Proof.Claims

open Sys2Proof.Machine

/-- Settles O44: DE fills the record from the registers it finds, and only write-back has changed them before it. -/
theorem decodeSeesSameCycleWriteBack : Obligations.DecodeSeesSameCycleWriteBack := by
  rintro s t f i ⟨running, test⟩ hF hd operation h
  rw [step_running running test] at h
  obtain ⟨s₃, s₄, h₄, latchF, reads, latchD⟩ := evalCycle_decode h
  obtain rfl := eq_of_evalStage_decode h₄ (latchF.trans hF) hd operation
  refine ⟨_, latchD, decodeFill_opcode _ _ _, decodeFill_address _ _ _, decodeFill_raw _ _ _, ?_⟩
  have operands := operandsRead_decodeFill i s₃ (f.fresh (.known i))
  rwa [reads] at operands

end Sys2Proof.Claims
end

section
/-! PROOF. Instructions on their way through the pipeline: a cycle without a branch in D moves what the latches hold on by one
latch each, and leaves of registers, HI, memory and reports what the instructions in them leave. -/

namespace Sys2Proof.Machine

open Claims

variable {i : Instr} {s t : State} {x : Nat → Word} {w : Word}

/-! ## What a latch holds -/

/-- Latch D, E or M holds instruction `i` with operands that were read by `x`, or nothing, where `i` is NOP. -/
inductive Holds (x : Nat → Word) (l : Option Record) (i : Instr) : Prop where
  | empty (latch : l = none) (nop : i = .nop)
  | record (r : Record) (latch : l = some r) (opcode : r.opcode = .known i) (operation : i ≠ .nop)
      (rd : r.rd = i.token1) (operands : OperandsRead x i r)

/-- Latch F holds a line that reads as instruction `i`, or nothing, where `i` is NOP. -/
inductive HoldsLine (l : Option FetchRecord) (i : Instr) : Prop where
  | empty (latch : l = none) (nop : i = .nop)
  | line (f : FetchRecord) (latch : l = some f) (reading : f.raw.decode = .instr i) (operation : i ≠ .nop)

theorem Holds.latchInstr {l : Option Record} (h : Holds x l i) : latchInstr l = some i := by
  cases h with
  | empty latch nop => rw [latch, nop]; rfl
  | record r latch opcode => exact latch ▸ latchInstr_some.mpr opcode

theorem Holds.isNone_iff {l : Option Record} (h : Holds x l i) : l.isNone = true ↔ i = .nop := by
  cases h with
  | empty latch nop => simp [latch, nop]
  | record r latch opcode operation => simp [latch, operation]

theorem HoldsLine.isNone_iff {l : Option FetchRecord} (h : HoldsLine l i) : l.isNone = true ↔ i = .nop := by
  cases h with
  | empty latch nop => simp [latch, nop]
  | line f latch reading operation => simp [latch, operation]

theorem HoldsLine.fetchSlot {l : Option FetchRecord} (h : HoldsLine l i) : fetchSlot l = .instr i := by
  cases h with
  | empty latch nop => rw [latch, nop]; rfl
  | line f latch reading => exact latch ▸ reading

/-- The record in the latch has `w` in its result field. -/
def HasResult (l : Option Record) (w : Word) : Prop := ∀ r, l = some r → r.result = w

/-! ## Each stage on an instruction it holds -/

/-- WB of an instruction: the word in its record goes to the register of its token 1 (R122). -/
def State.retire (s : State) (i : Instr) (w : Word) : State := if i.writesBack = true then s.writeReg i.token1 w else s

theorem effect_regs_retire (x : Nat → Word) (i : Instr) (s : State) :
    (effect x i s).regs = (s.retire i (written x i s)).regs := by
  rw [effect_regs, State.retire]
  split <;> rfl

theorem State.retire_eq (s : State) (i : Instr) (w : Word) : s.retire i w = { s with
    regs := (s.retire i w).regs, reports := s.reports ++ writeBackReports i
    reportLog := s.reportLog ++ writeBackReports i } := by
  unfold State.retire writeBackReports
  split
  · rw [← State.writeReg_reports, ← State.writeReg_reportLog]
    exact s.writeReg_eq _ _
  · simp

theorem State.retire_regs_congr (regs : t.regs = s.regs) (i : Instr) (w : Word) :
    (t.retire i w).regs = (s.retire i w).regs := by
  unfold State.retire
  split
  · exact State.writeReg_regs_congr t s regs _ _
  · exact regs

/-- WB writes the word in the record of the instruction it holds (R122). -/
theorem writeBackState_holds (h : Holds x s.latchM i) (word : i.writesBack = true → HasResult s.latchM w) :
    writeBackState s = s.retire i w := by
  cases h with
  | empty hM nop =>
    rw [writeBackState_none hM, nop]
    rfl
  | record r hM opcode operation rd operands =>
    rw [writeBackState_known hM opcode, State.retire, rd]
    split
    · next set => rw [word set r hM]
    · rfl

/-- MEM hands the instruction on, with LW's word in its record and SW's word in memory (R124). -/
theorem eq_of_evalStage_memory (h : evalStage .memory s = .next t) (holds : Holds x s.latchE i) : ∃ m,
    t = { s with stage := .memory, latchM := m, mem := memoryAfter x i s }.report (memoryReports x i s) ∧
    Holds x m i ∧
    (i.writesBack = true → (isLoad i = false → HasResult s.latchE w) →
      HasResult m (if isLoad i = true then written x i s else w)) := by
  rw [evalStage_memory, holds.latchInstr] at h
  cases holds with
  | empty hE nop =>
    subst nop
    cases h
    exact ⟨none, (State.report_nil _).symm, .empty rfl rfl, fun _ _ r hr => by cases hr⟩
  | record r hE opcode operation rd operands =>
    have e := memoryPart_known (s := { s with stage := .memory }) operation hE operands
    obtain rfl := Host.Outcome.next.inj (e.symm.trans h)
    rw [memoryAfter_congr (t := { s with stage := .memory }) (s := s) rfl rfl,
      memoryReports_congr (t := { s with stage := .memory }) (s := s) rfl]
    refine ⟨_, rfl, .record _ rfl opcode operation rd (operandsRead_result operands _), ?_⟩
    rintro set result _ ⟨⟩
    rw [resultAfterMemory]
    split
    · next load => exact written_congr_load load rfl rfl x
    · next other => exact result (Bool.eq_false_of_not_eq_true other) r hE

/-- EX hands the instruction on, with its word in its record unless it is LW's (R125, R126). -/
theorem eq_of_evalStage_execute (h : evalStage .execute s = .next t) (policies : s.config.defaultPolicies = true)
    (holds : Holds x s.latchD i) (straight : i.isBranch = false) : ∃ e,
    t = { s with stage := .execute, latchE := e, hi := highAfter x i s }.report (executeReports x i) ∧
    Holds x e i ∧
    (i.writesBack = true → isLoad i = false → HasResult e (written x i s)) := by
  rw [evalStage_execute, holds.latchInstr] at h
  cases holds with
  | empty hD nop =>
    subst nop
    cases h
    exact ⟨none, (State.report_nil _).symm, .empty rfl rfl, fun _ _ r hr => by cases hr⟩
  | record r hD opcode operation rd operands =>
    have e := executePart_known (s := { s with stage := .execute }) policies operation straight hD operands
    obtain rfl := Host.Outcome.next.inj (e.symm.trans h)
    rw [highAfter_congr (t := { s with stage := .execute }) (s := s) rfl]
    refine ⟨_, rfl, .record _ rfl opcode operation rd (operandsRead_result operands _), ?_⟩
    rintro set other _ ⟨⟩
    rw [resultAfterExecute_eq set other, written_congr_hi (t := { s with stage := .execute }) (s := s) other rfl]

/-- DE makes the record of the line in F, with the registers it finds (R127). -/
theorem eq_of_evalStage_decode_holds (h : evalStage .decode s = .next t) (holds : HoldsLine s.latchF i) : ∃ d,
    t = { s with stage := .decode, latchD := d }.report (decodeReports i) ∧ Holds s.readReg d i := by
  cases holds with
  | empty hF nop =>
    subst nop
    have e : evalStage .decode s = .next { s with stage := .decode, latchD := none } := by
      rw [evalStage_of_slot (i := .nop) (by simp only [slotAt, hF]), exec_decode_nop rfl]
    rw [e] at h
    cases h
    exact ⟨none, (State.report_nil _).symm, .empty rfl rfl⟩
  | line f hF reading operation =>
    exact ⟨_, eq_of_evalStage_decode h hF reading operation, .record _ rfl (decodeFill_opcode _ _ _) operation
      (decodeFill_rd operation _ _) (operandsRead_decodeFill _ _ _)⟩

/-- IF puts the line at the pc into F (R132). -/
theorem eq_of_evalStage_fetch (h : evalStage .fetch s = .next t) (front : slotAt { s with stage := .fetch } = .instr i) :
    ∃ f line, t = { s with stage := .fetch, latchF := f, currentLine := line, pc := s.pc + 1 } ∧ HoldsLine f i := by
  obtain ⟨f, line, e, fetched⟩ := fetchLine_eq { s with stage := .fetch }
  rw [evalStage_fetch, e] at h
  cases h
  refine ⟨f, line, rfl, ?_⟩
  obtain ⟨no_line, rfl, -⟩ | ⟨l, at_pc, -, rfl⟩ := fetched
  · simp only [slotAt, no_line] at front
    exact .empty rfl (Decoded.instr.inj front).symm
  · simp only [slotAt, at_pc] at front
    split
    · next blank =>
      exact .empty rfl (Decoded.instr.inj (front.symm.trans (l.decode_of_isBlank blank)))
    · next text =>
      exact .line _ rfl front (by rintro rfl; exact text (Line.isBlank_of_decode_nop front))

/-! ## A cycle -/

/-- What the pipeline carries: the instruction in each latch, how D's and E's operands were read, and the words that E's and
M's write-back will deliver (of an LW in E not yet known). -/
structure Flow where
  inF : Instr
  inD : Instr
  readD : Nat → Word
  inE : Instr
  readE : Nat → Word
  wordE : Word
  inM : Instr
  readM : Nat → Word
  wordM : Word

/-- The latches hold what the flow says. -/
structure Flow.On (p : Flow) (s : State) : Prop where
  latchF : HoldsLine s.latchF p.inF
  latchD : Holds p.readD s.latchD p.inD
  latchE : Holds p.readE s.latchE p.inE
  latchM : Holds p.readM s.latchM p.inM
  resultE : p.inE.writesBack = true → isLoad p.inE = false → HasResult s.latchE p.wordE
  resultM : p.inM.writesBack = true → HasResult s.latchM p.wordM

/-- The flow one cycle on from `s`, with instruction `n` fetched and registers read by `reads`. -/
def Flow.next (p : Flow) (s : State) (reads : Nat → Word) (n : Instr) : Flow where
  inF := n
  inD := p.inF
  readD := reads
  inE := p.inD
  readE := p.readD
  wordE := written p.readD p.inD s
  inM := p.inE
  readM := p.readE
  wordM := if isLoad p.inE = true then written p.readE p.inE s else p.wordE

/-- What a cycle without a branch in D leaves of `s`, outside the latches, under flow `p`. -/
structure FlowEffect (p : Flow) (s t : State) : Prop where
  regs : t.regs = (s.retire p.inM p.wordM).regs
  mem : t.mem = memoryAfter p.readE p.inE s
  hi : t.hi = highAfter p.readD p.inD s
  reportLog : t.reportLog = s.reportLog ++ writeBackReports p.inM ++ memoryReports p.readE p.inE s ++
    executeReports p.readD p.inD ++ decodeReports p.inF
  pc : t.pc = s.pc + 1
  cycles : t.cycles = s.cycles + 1
  config : t.config = s.config
  prog : t.prog = s.prog
  runState : t.runState = s.runState

/-- A cycle moves the flow on (R120). Only DE reads what an earlier stage of the same cycle has written: the registers. -/
theorem evalCycle_flow {p : Flow} {n : Instr} (policies : s.config.defaultPolicies = true) (flow : p.On s)
    (straight : p.inD.isBranch = false) (front : slotAt { s with stage := .fetch } = .instr n) {now : List Report}
    (h : evalCycle { s with reports := now } = .next t) : (p.next s t.readReg n).On t ∧ FlowEffect p s t := by
  obtain ⟨s₂, s₃, s₄, s₅, h₂, h₃, h₄, h₅, rfl⟩ := evalCycle_next h
  rw [writeBackState_holds (s := { s with reports := now, stage := .writeBack }) flow.latchM flow.resultM,
    State.retire_eq] at h₂
  dsimp only at h₂
  obtain ⟨m, rfl, holdsM, resultM⟩ := eq_of_evalStage_memory (w := p.wordE) h₂ flow.latchE
  dsimp only [State.report] at h₃ resultM
  obtain ⟨e, rfl, holdsE, resultE⟩ := eq_of_evalStage_execute h₃ policies flow.latchD straight
  dsimp only [State.report] at h₄ resultE
  obtain ⟨d, rfl, holdsD⟩ := eq_of_evalStage_decode_holds h₄ flow.latchF
  dsimp only [State.report] at h₅ holdsD
  obtain ⟨f, line, rfl, holdsF⟩ := eq_of_evalStage_fetch h₅ front
  dsimp only
  constructor
  · exact {
      latchF := holdsF
      latchD := holdsD
      latchE := holdsE
      latchM := holdsM
      resultE := fun set other r hr => (resultE set other r hr).trans (written_congr_hi (s := s) other (by rfl) _)
      resultM := fun set => resultM set (flow.resultE set) }
  · exact {
      regs := State.retire_regs_congr (s := s) (t := { s with reports := now, stage := .writeBack }) rfl _ _
      mem := memoryAfter_congr rfl rfl _ _
      hi := highAfter_congr rfl _ _
      reportLog := rfl
      pc := rfl
      cycles := rfl
      config := rfl
      prog := rfl
      runState := rfl }

/-- Under the default policies such a cycle answers, and moves the flow on. -/
theorem step_flow {p : Flow} {n : Instr} (evaluates : Evaluates s) (policies : s.config.defaultPolicies = true)
    (flow : p.On s) (straight : p.inD.isBranch = false) (front : slotAt { s with stage := .fetch } = .instr n) :
    ∃ t, step s = .next t ∧ (p.next s t.readReg n).On t ∧ FlowEffect p s t := by
  have formed : ∀ why, fetchSlot s.latchF ≠ .illFormed why := by simp [flow.latchF.fetchSlot]
  obtain ⟨t, h⟩ := evalCycle_answers (s := { s with reports := [] }) policies formed
  exact ⟨t, (step_running evaluates.1 evaluates.2).trans h, evalCycle_flow policies flow straight front h⟩

/-! ## An instruction alone -/

/-- The flow of empty latches. -/
def Flow.idle : Flow where
  inF := .nop
  inD := .nop
  readD := fun _ => 0
  inE := .nop
  readE := fun _ => 0
  wordE := 0
  inM := .nop
  readM := fun _ => 0
  wordM := 0

theorem Flow.On.latchesEmpty_iff {p : Flow} (flow : p.On s) : s.latchesEmpty = true ↔
    p.inF = .nop ∧ p.inD = .nop ∧ p.inE = .nop ∧ p.inM = .nop := by
  simp only [State.latchesEmpty, Bool.and_eq_true, flow.latchF.isNone_iff, flow.latchD.isNone_iff,
    flow.latchE.isNone_iff, flow.latchM.isNone_iff, and_assoc]

theorem Flow.idle_on (empty : s.latchesEmpty = true) : Flow.idle.On s := by
  simp only [State.latchesEmpty, Bool.and_eq_true, Option.isNone_iff_eq_none, and_assoc] at empty
  obtain ⟨latchF, latchD, latchE, latchM⟩ := empty
  exact {
    latchF := .empty latchF rfl
    latchD := .empty latchD rfl
    latchE := .empty latchE rfl
    latchM := .empty latchM rfl
    resultE := fun set => by cases set
    resultM := fun set => by cases set }

/-- A core below its ceiling goes on while a latch is full (R133). -/
theorem evaluates_of_latch (running : s.runState ≠ .halted) (below : s.cycles < s.config.ceiling)
    (full : ¬ s.latchesEmpty = true) : Evaluates s := by
  refine ⟨running, Bool.eq_false_of_not_eq_true (mt s.haltTest_iff.mp ?_)⟩
  rintro (reached | ⟨-, empty⟩)
  · exact Nat.not_le_of_lt below reached
  · exact full empty

/-- What IF reads (R132). -/
theorem slotAt_fetch_of_line {l : Line} (line : s.lineAtPc = some l) : slotAt { s with stage := .fetch } = l.decode := by
  have line' : State.lineAtPc { s with stage := .fetch } = some l := line
  simp only [slotAt, line']

theorem slotAt_fetch_of_blank (blank : ∀ l, s.lineAtPc = some l → l.isBlank = true) :
    slotAt { s with stage := .fetch } = .instr .nop := by
  cases line : s.lineAtPc with
  | none =>
    have line' : State.lineAtPc { s with stage := .fetch } = none := line
    simp only [slotAt, line']
  | some l => rw [slotAt_fetch_of_line line, l.decode_of_isBlank (blank l line)]

/-- State `t` is `k` cycles without a taken branch after `s`. -/
structure Later (s : State) (k : Nat) (t : State) : Prop where
  config : t.config = s.config
  prog : t.prog = s.prog
  runState : t.runState = s.runState
  pc : t.pc = s.pc + k
  cycles : t.cycles = s.cycles + k

theorem Later.start (s : State) : Later s 0 s := ⟨rfl, rfl, rfl, (Int.add_zero _).symm, rfl⟩

theorem Later.cycle {p : Flow} {k : Nat} {u : State} (later : Later s k t) (effect : FlowEffect p t u) :
    Later s (k + 1) u where
  config := effect.config.trans later.config
  prog := effect.prog.trans later.prog
  runState := effect.runState.trans later.runState
  pc := by rw [effect.pc, later.pc]; push_cast; omega
  cycles := by rw [effect.cycles, later.cycles]; omega

/-- The four lines after the one at the pc are blank, or outside the program. -/
def FollowedByBlanks (s : State) : Prop :=
  ∀ k l, s.prog[k]? = some l → s.pc.toNat < k → k ≤ s.pc.toNat + 4 → l.isBlank = true

/-- A cycle that moves the flow on and fetches a blank line. -/
theorem Later.step_flow {p : Flow} {k : Nat} (later : Later s k t) (ready : Ready s)
    (below : s.cycles + 5 ≤ s.config.ceiling) (blank : FollowedByBlanks s) (low : 1 ≤ k) (high : k ≤ 4) (flow : p.On t)
    (full : ¬ (p.inF = .nop ∧ p.inD = .nop ∧ p.inE = .nop ∧ p.inM = .nop)) (straight : p.inD.isBranch = false) :
    ∃ u, step t = .next u ∧ (p.next t u.readReg .nop).On u ∧ FlowEffect p t u ∧ Later s (k + 1) u := by
  have nonneg := ready.pc_nonneg
  have evaluates : Evaluates t := evaluates_of_latch (later.runState ▸ ready.not_halted)
    (by rw [later.cycles, later.config]; omega) (mt flow.latchesEmpty_iff.mp full)
  have front : slotAt { t with stage := .fetch } = .instr .nop := by
    refine slotAt_fetch_of_blank fun l hl => ?_
    obtain ⟨-, entry⟩ := State.lineAtPc_eq_some.mp hl
    rw [later.prog, later.pc] at entry
    exact blank _ l entry (by omega) (by omega)
  obtain ⟨u, h, flow', effect⟩ := Machine.step_flow evaluates (later.config ▸ ready.policies) flow straight front
  exact ⟨u, h, flow', effect, later.cycle effect⟩

end Sys2Proof.Machine

namespace Sys2Proof.Claims

open Sys2Proof.Machine

/-- Settles O48: in five cycles the instruction's flow passes F, D, E and M, and each stage leaves its part of the effect. -/
theorem isolatedInstructionHasItsEffect : Obligations.IsolatedInstructionHasItsEffect := by
  intro s i ready below operation straight hline blank
  obtain ⟨l, hl, reading⟩ := hline
  have line : s.lineAtPc = some l := State.lineAtPc_eq_some.mpr ⟨ready.pc_nonneg, hl⟩
  obtain ⟨t₁, h₁, flow₁, effect₁⟩ := step_flow ⟨ready.not_halted, haltTest_of_line (by omega) line⟩ ready.policies
    (Flow.idle_on ready.empty) rfl ((slotAt_fetch_of_line line).trans reading)
  have later₁ := (Later.start s).cycle effect₁
  obtain ⟨t₂, h₂, flow₂, effect₂, later₂⟩ := later₁.step_flow ready below blank (by decide) (by decide) flow₁
    (fun full => operation full.1) rfl
  obtain ⟨t₃, h₃, flow₃, effect₃, later₃⟩ := later₂.step_flow ready below blank (by decide) (by decide) flow₂
    (fun full => operation full.2.1) straight
  obtain ⟨t₄, h₄, flow₄, effect₄, later₄⟩ := later₃.step_flow ready below blank (by decide) (by decide) flow₃
    (fun full => operation full.2.2.1) rfl
  obtain ⟨t₅, h₅, flow₅, effect₅, later₅⟩ := later₄.step_flow ready below blank (by decide) (by decide) flow₄
    (fun full => operation full.2.2.2) rfl
  have reads : t₂.readReg = s.readReg := funext (State.readReg_congr (effect₂.regs.trans effect₁.regs))
  have regs₄ : t₄.regs = s.regs := effect₄.regs.trans (effect₃.regs.trans (effect₂.regs.trans effect₁.regs))
  have hi₂ : t₂.hi = s.hi := effect₂.hi.trans effect₁.hi
  have mem₃ : t₃.mem = s.mem := effect₃.mem.trans (effect₂.mem.trans effect₁.mem)
  have regs₅ : t₅.regs = (t₄.retire i
      (if isLoad i = true then written t₂.readReg i t₃ else written t₂.readReg i t₂)).regs := effect₅.regs
  have mem₅ : t₅.mem = memoryAfter t₂.readReg i t₃ := effect₅.mem.trans effect₄.mem
  have hi₅ : t₅.hi = highAfter t₂.readReg i t₂ := effect₅.hi.trans (effect₄.hi.trans effect₃.hi)
  have word : (if isLoad i = true then written s.readReg i t₃ else written s.readReg i t₂) = written s.readReg i s := by
    split
    · next load => exact written_congr_load load later₃.config mem₃ _
    · next other => exact written_congr_hi (Bool.eq_false_of_not_eq_true other) hi₂ _
  have reports : t₅.reportLog = s.reportLog ++ decodeReports i ++ executeReports t₂.readReg i ++
      memoryReports t₂.readReg i t₃ ++ writeBackReports i := by
    simp [effect₅.reportLog, effect₄.reportLog, effect₃.reportLog, effect₂.reportLog, effect₁.reportLog, Flow.next,
      Flow.idle]
  rw [reads] at regs₅ mem₅ hi₅ reports
  refine ⟨t₅, ?_, ?_, ?_, ?_, ?_, later₅.pc, later₅.cycles, flow₅.latchesEmpty_iff.mpr ⟨rfl, rfl, rfl, rfl⟩,
    later₅.runState⟩
  · simp only [advanceCycles_succ, advanceCycles_zero, Result.andThen_next, h₁, h₂, h₃, h₄, h₅]
  · rw [regs₅, word, State.retire_regs_congr regs₄, settled, effect_regs_retire]
  · rw [hi₅, highAfter_congr hi₂, settled, effect_hi]
  · rw [mem₅, memoryAfter_congr later₃.config mem₃, settled, effect_mem]
  · rw [reports, memoryReports_congr later₃.config, lifeReports_eq]
    simp only [List.append_assoc]

end Sys2Proof.Claims
end

section
/-! PROOF. The arithmetic instructions (41_arithmetic.md). The image of each is the encoder's word, its decode, memory and
write-back are those of every instruction that computes a register, and its execute rule is read on 32-bit words. -/

namespace Sys2Proof

/-! ## Images written as concatenated fields -/

theorem toNat_append_eq_add {m n : Nat} (x : BitVec m) (y : BitVec n) : (x ++ y).toNat = x.toNat * 2 ^ n + y.toNat := by
  rw [BitVec.toNat_append, ← Nat.shiftLeft_add_eq_or_of_lt y.isLt, Nat.shiftLeft_eq]

section Image

variable {op : BitVec 6}

theorem decodeImage_append_r3 {f : Nat → Nat → Nat → Instr} (format : formats[op.toNat]? = some (.r3 f))
    (d a b : BitVec 5) : decodeImage (op ++ d ++ a ++ b ++ 0#11) = .instr (f d.toNat a.toNat b.toNat) := by
  obtain ⟨image, wf⟩ := format_written format d.toNat a.toNat b.toNat
  have word : op ++ d ++ a ++ b ++ 0#11 = encode (f d.toNat a.toNat b.toNat) := by
    have hb := b.isLt
    apply BitVec.eq_of_toNat_eq
    rw [image, Laws.toNat_imageWord op.isLt d.isLt a.isLt (by omega)]
    simp only [toNat_append_eq_add, BitVec.toNat_ofNat]
    omega
  rw [word, decodeImage_encode]
  simp [wf, regWf, d.isLt, a.isLt, b.isLt]

theorem decodeImage_append_i3 {f : Nat → Nat → Lit → Instr} (format : formats[op.toNat]? = some (.i3 f))
    (d a : BitVec 5) (v : BitVec 16) : decodeImage (op ++ d ++ a ++ v) = .instr (f d.toNat a.toNat ⟨v, false⟩) := by
  obtain ⟨image, wf⟩ := format_written format d.toNat a.toNat ⟨v, false⟩
  have word : op ++ d ++ a ++ v = encode (f d.toNat a.toNat ⟨v, false⟩) := by
    apply BitVec.eq_of_toNat_eq
    rw [image, Laws.toNat_imageWord op.isLt d.isLt a.isLt v.isLt]
    simp only [toNat_append_eq_add]
    omega
  rw [word, decodeImage_encode]
  simp [wf, regWf, d.isLt, a.isLt, Lit.wf]

theorem decodeImage_append_r1 {f : Nat → Instr} (format : formats[op.toNat]? = some (.r1 f)) (d : BitVec 5) :
    decodeImage (op ++ d ++ 0#21) = .instr (f d.toNat) := by
  obtain ⟨image, wf⟩ := format_written format d.toNat
  have word : op ++ d ++ 0#21 = encode (f d.toNat) := by
    apply BitVec.eq_of_toNat_eq
    rw [image, Laws.toNat_imageWord op.isLt d.isLt (by decide) (by decide)]
    simp only [toNat_append_eq_add, BitVec.toNat_ofNat]
    omega
  rw [word, decodeImage_encode]
  simp [wf, regWf, d.isLt]

end Image

end Sys2Proof

namespace Sys2Proof.Machine

open Claims

variable {i : Instr} {s : State} {r : Record}

/-! ## Decode, memory and write-back of an instruction that computes a register -/

theorem decodes (operation : i ≠ .nop) : Decodes i := by
  intro s f stage hF policy
  refine ⟨decodeFill i s (f.fresh (.known i)), ?_, decodeFill_address _ _ _, decodeFill_raw _ _ _,
    decodeFill_opcode _ _ _, operandsRead_decodeFill _ _ _⟩
  rw [exec_decode stage operation]
  simp [decodeWith, hF, policy]

/-- Of the write-back set only LW does more in MEM than to move its record (R124). -/
theorem memoryPart_eq_memoryPass (set : i.writesBack = true) (other : isLoad i = false) (s : State) :
    memoryPart i s = memoryPass s := by
  cases i with
  | nop | sw => cases set
  | lw => cases other
  | _ => rfl

theorem moves (set : i.writesBack = true) (other : isLoad i = false) : Moves i := by
  intro s r stage hE
  rw [exec_memory stage, memoryPart_eq_memoryPass set other, memoryPass, hE]

theorem writesRd (set : i.writesBack = true) : WritesRd i := by
  intro s r stage hM
  rw [exec_writeBack stage, if_pos set, writeBackResult_eq, hM]

theorem decodes_moves_writesRd (set : i.writesBack = true) (other : isLoad i = false) :
    Decodes i ∧ Moves i ∧ WritesRd i := by
  have operation : i ≠ .nop := by
    rintro rfl
    cases set
  exact ⟨decodes operation, moves set other, writesRd set⟩

/-! ## Execute -/

theorem computes {g : Record → Word} {value : Word → Word → Word}
    (execute : ∀ s, executePart i s = executeResult g s)
    (result : ∀ {r : Record} {b : Word}, r.rt = .value b → g r = value r.rs b) : Computes i value := by
  intro s r b stage hD hb
  rw [exec_execute stage, execute, executeResult_some g hD, result hb]

/-- The whole rule of a three-register instruction that computes `value`. -/
theorem ruleR3 {op : BitVec 6} {f : Nat → Nat → Nat → Instr} {g : Record → Word} {value : Word → Word → Word}
    (format : formats[op.toNat]? = some (.r3 f)) (set : ∀ d a b, (f d a b).writesBack = true)
    (other : ∀ d a b, isLoad (f d a b) = false) (execute : ∀ d a b s, executePart (f d a b) s = executeResult g s)
    (result : ∀ {r : Record} {b : Word}, r.rt = .value b → g r = value r.rs b) : RuleR3 op f value := by
  refine ⟨decodeImage_append_r3 format, fun d a b => ?_⟩
  obtain ⟨decode, memory, writeBack⟩ := decodes_moves_writesRd (set d a b) (other d a b)
  exact ⟨decode, computes (execute d a b) result, memory, writeBack⟩

/-- The whole rule of an instruction with a literal at token 3 that computes `value`. -/
theorem ruleI3 {op : BitVec 6} {f : Nat → Nat → Lit → Instr} {g : Record → Word} {value : Word → Word → Word}
    (format : formats[op.toNat]? = some (.i3 f)) (set : ∀ d a imm, (f d a imm).writesBack = true)
    (other : ∀ d a imm, isLoad (f d a imm) = false)
    (execute : ∀ d a imm s, executePart (f d a imm) s = executeResult g s)
    (result : ∀ {r : Record} {b : Word}, r.rt = .value b → g r = value r.rs b) : RuleI3 op f value := by
  refine ⟨decodeImage_append_i3 format, fun d a imm => ?_⟩
  obtain ⟨decode, memory, writeBack⟩ := decodes_moves_writesRd (set d a imm) (other d a imm)
  exact ⟨decode, computes (execute d a imm) result, memory, writeBack⟩

/-! ## Sums, differences and products -/

/-- `u32 ∘ sext16` is the sign extension of the low half (R7). -/
theorem u32_sext16 (w : Word) : u32 (sext16 w) = sext w := rfl

/-- R162 for every resolved second operand. -/
theorem addiResult_eq_sext {b : Word} (h : r.rt = .value b) : addiResult r = r.rs + sext b := by
  rw [← u32_sext16]
  simp [addiResult, u32, h, Rt.word, BitVec.ofInt_add]

/-- R164 for every resolved second operand. -/
theorem subiResult_eq_sext {b : Word} (h : r.rt = .value b) : subiResult r = r.rs - sext b := by
  rw [← u32_sext16, subiResult, u32_sub]
  simp [u32, h, Rt.word]

theorem mulResult_eq_ofInt {b : Word} (h : r.rt = .value b) :
    mulResult r = BitVec.ofInt 32 (r.rs.toInt * b.toInt) := by
  rw [mulResult, h]
  rfl

theorem muluResult_eq_ofNat {b : Word} (h : r.rt = .value b) :
    muluResult r = BitVec.ofNat 32 (r.rs.toNat * b.toNat) := by
  rw [muluResult, h, ← Int.natCast_mul]
  exact BitVec.ofInt_natCast _ _

/-- Signed and unsigned reading of an operand differ by a multiple of `2 ^ 32`, so the products have the same low half
(D30); the tag of the third operand does not matter. -/
theorem mulResult_eq_muluResult : mulResult = muluResult := by
  funext r
  have signed : mulResult r = r.rs * r.rt.word := by simp [mulResult, u32, s32, BitVec.ofInt_mul]
  have unsigned : muluResult r = r.rs * r.rt.word := by simp [muluResult, u32, BitVec.ofInt_mul]
  exact signed.trans unsigned.symm

/-! ## Division -/

theorem fmod_range_of_pos (a : Int) {b : Int} (h : 0 < b) : 0 ≤ Int.fmod a b ∧ Int.fmod a b < b :=
  ⟨Int.fmod_nonneg_of_pos a h, Int.fmod_lt_of_pos a h⟩

/-- The floored remainder has the sign of the divisor: negate both operands. -/
theorem fmod_range_of_neg (a : Int) {b : Int} (h : b < 0) : b < Int.fmod a b ∧ Int.fmod a b ≤ 0 := by
  have range := fmod_range_of_pos (-a) (Int.neg_pos_of_neg h)
  rw [Int.neg_fmod_neg] at range
  omega

theorem remainderInDoubt_iff (a b : Int) : remainderInDoubt a b = true ↔ a * b < 0 ∧ Int.fmod a b ≠ 0 := by
  rw [remainderInDoubt, Bool.and_eq_true, decide_eq_true_eq, decide_eq_true_eq, floorQuotient, Int.fmod_def, mul_comm b]

/-- Where U8 leaves no choice, DIV's HI is the floored remainder (R166, D14). -/
theorem divHigh_eq_fmod {c : Config} {b : Word} (hb : r.rt = .value b) (nonzero : b ≠ 0)
    (settled : c.divRemainder = .floored ∨ Int.fmod r.rs.toInt b.toInt = 0 ∨ 0 ≤ r.rs.toInt * b.toInt) :
    divHigh c r = BitVec.ofInt 32 (Int.fmod r.rs.toInt b.toInt) := by
  obtain floored | certain := settled
  · rw [divHigh_eq hb floored, if_neg nonzero]
  · have noDoubt : ¬ remainderInDoubt r.rs.toInt b.toInt = true := by
      rw [remainderInDoubt_iff]
      rintro ⟨opposite, inexact⟩
      exact certain.elim inexact (Int.not_le.mpr opposite)
    have same : divHigh c r = divHigh { c with divRemainder := .floored } r := by
      simp only [divHigh, hb, Rt.word, s32, noDoubt, and_false, if_false, Bool.false_eq_true]
    rw [same, divHigh_eq hb rfl, if_neg nonzero]

theorem divHigh_zero (c : Config) (hb : r.rt = .value 0) : divHigh c r = 0 := by
  rw [divHigh, hb]
  rfl

theorem exec_div {d a b : Nat} {w : Word} (stage : s.stage = .execute) (hD : s.latchD = some r) (hb : r.rt = .value w) :
    exec (.div d a b) s = .next ({ s with
      latchE := some { r with result := if w = 0 then 0 else BitVec.ofInt 32 (Int.fdiv r.rs.toInt w.toInt) }
      hi := divHigh s.config r }.report (if w = 0 then [.divisionByZero] else [])) := by
  rw [exec_execute stage, executePart, executeDiv, hD, ← divResult_eq hb, ← divisionReports_eq hb]

theorem exec_divu {d a b : Nat} {w : Word} (stage : s.stage = .execute) (hD : s.latchD = some r) (hb : r.rt = .value w) :
    exec (.divu d a b) s = .next ({ s with latchE := some { r with result := r.rs / w } }.report
      (if w = 0 then [.divisionByZero] else [])) := by
  rw [exec_execute stage, executePart, executeDivu, hD, ← divuResult_eq hb, ← divisionReports_eq hb]

end Sys2Proof.Machine

namespace Sys2Proof.Claims

open Sys2Proof.Machine

/-- Settles O27: two sums and two differences of 32-bit words. -/
theorem additionAndSubtraction : Obligations.AdditionAndSubtraction :=
  ⟨ruleR3 rfl (fun _ _ _ => rfl) (fun _ _ _ => rfl) (fun _ _ _ _ => rfl) addResult_eq,
    ruleI3 rfl (fun _ _ _ => rfl) (fun _ _ _ => rfl) (fun _ _ _ _ => rfl) addiResult_eq_sext,
    ruleR3 rfl (fun _ _ _ => rfl) (fun _ _ _ => rfl) (fun _ _ _ _ => rfl) subResult_eq,
    ruleI3 rfl (fun _ _ _ => rfl) (fun _ _ _ => rfl) (fun _ _ _ _ => rfl) subiResult_eq_sext⟩

/-- Settles O28: the exact products, reduced at the end. -/
theorem multiplication : Obligations.Multiplication :=
  ⟨ruleR3 rfl (fun _ _ _ => rfl) (fun _ _ _ => rfl) (fun _ _ _ _ => rfl) mulResult_eq_ofInt,
    ruleR3 rfl (fun _ _ _ => rfl) (fun _ _ _ => rfl) (fun _ _ _ _ => rfl) muluResult_eq_ofNat⟩

/-- Settles O29: both execute stages compute a result, and it is the same function of the record. -/
theorem mulAndMuluAgree : Obligations.MulAndMuluAgree := by
  intro d a b d' a' b' s stage
  rw [exec_execute stage, exec_execute stage, executePart, executePart, mulResult_eq_muluResult]

/-- Settles O30: quotient and remainder are those of floored division, whose remainder has the sign of the divisor. -/
theorem division : Obligations.Division := by
  refine ⟨decodeImage_append_r3 rfl, decodeImage_append_r3 rfl, fun d a b => ?_,
    fun d a b s r w stage hD hb => ⟨?_, fun nonzero => ?_⟩⟩
  · obtain ⟨decode, memory, writeBack⟩ := decodes_moves_writesRd (i := .div d a b) rfl rfl
    exact ⟨decode, memory, writeBack, decodes_moves_writesRd rfl rfl⟩
  · rintro rfl
    rw [exec_div stage hD hb, exec_divu stage hD hb, divHigh_zero _ hb]
    simp
  · rw [exec_div stage hD hb, exec_divu stage hD hb]
    simp only [if_neg nonzero, State.report_nil, BitVec.udiv_def, true_and]
    refine ⟨Int.fdiv r.rs.toInt w.toInt, Int.fmod r.rs.toInt w.toInt, (Int.fdiv_mul_add_fmod _ _).symm,
      fmod_range_of_pos _, fmod_range_of_neg _, ⟨_, rfl⟩, fun settled => ?_⟩
    rw [divHigh_eq_fmod hb nonzero settled]

/-- Settles O31: MFHI's result is HI in every record. -/
theorem moveFromHigh : Obligations.MoveFromHigh := by
  refine ⟨decodeImage_append_r1 rfl, fun d => ?_⟩
  obtain ⟨decode, memory, writeBack⟩ := decodes_moves_writesRd (i := .mfhi d) rfl rfl
  refine ⟨decode, memory, writeBack, fun s r stage hD => ?_⟩
  rw [exec_execute stage, executePart, executeResult_some _ hD]

end Sys2Proof.Claims
end

section
/-! PROOF. The logical and shift instructions (42_logical_shift.md). Their images, decode, memory and write-back are those of
every instruction that computes a register; a shift's execute rule has two outcomes, of which SHIFT_POLICY chooses one. -/

namespace Sys2Proof.Machine

open Claims

variable {i : Instr} {s : State} {r : Record}

/-! ## Zero-extended literals -/

/-- The two spellings of `zext16` (R7), in the model and in the statements, are one function. -/
theorem zext16_eq_zext (w : Word) : zext16 w = zext w := rfl

section Results

variable {b : Word} (h : r.rt = .value b)

include h

/-- R182 for every resolved second operand. -/
theorem andiResult_eq_zext : andiResult r = r.rs &&& zext b := by
  simp only [andiResult, h, Rt.word, zext16_eq_zext]

/-- R184 for every resolved second operand. -/
theorem oriResult_eq_zext : oriResult r = r.rs ||| zext b := by
  simp only [oriResult, h, Rt.word, zext16_eq_zext]

/-- R186 for every resolved second operand. -/
theorem xoriResult_eq_zext : xoriResult r = r.rs ^^^ zext b := by
  simp only [xoriResult, h, Rt.word, zext16_eq_zext]

end Results

/-! ## Execute of a shift -/

theorem shiftRefused_iff (c : Config) (amount : Word) :
    shiftRefused c amount = true ↔ c.shiftPolicy = .refuse ∧ 32 ≤ amount.toNat := by
  simp [shiftRefused]

section Shift

variable {w : Word} (f : Record → Word) (hD : s.latchD = some r) (hb : r.rt = .value w)

include hD hb

theorem executeShift_defined (defined : s.config.shiftPolicy = .low5 ∨ w.toNat < 32) :
    executeShift f s = .next { s with latchE := some { r with result := f r } } := by
  have accepted : ¬ shiftRefused s.config w = true := by
    rw [shiftRefused_iff]
    rintro ⟨refuse, large⟩
    obtain low5 | small := defined
    · cases refuse.symm.trans low5
    · omega
  simp [executeShift, hD, hb, Rt.word, accepted]

theorem executeShift_refused (refuse : s.config.shiftPolicy = .refuse) (large : 32 ≤ w.toNat) :
    executeShift f s = .refused .shiftAmount := by
  have refused : shiftRefused s.config w = true := (shiftRefused_iff _ _).mpr ⟨refuse, large⟩
  simp [executeShift, hD, hb, Rt.word, refused]

end Shift

/-- The stages of an instruction that shifts: `value` of the operands, unless SHIFT_POLICY refuses the amount. -/
theorem shiftStages {g : Record → Word} {value : Word → Word → Word} (set : i.writesBack = true)
    (other : isLoad i = false) (execute : ∀ s, executePart i s = executeShift g s)
    (result : ∀ {r : Record} {b : Word}, r.rt = .value b → g r = value r.rs b) :
    Decodes i ∧ Moves i ∧ WritesRd i ∧
    ∀ (s : State) (r : Record) (w : Word), s.stage = .execute → s.latchD = some r → r.rt = .value w →
      ((s.config.shiftPolicy = .low5 ∨ w.toNat < 32) →
        exec i s = .next { s with latchE := some { r with result := value r.rs w } }) ∧
      (s.config.shiftPolicy = .refuse → 32 ≤ w.toNat → exec i s = .refused .shiftAmount) := by
  obtain ⟨decode, memory, writeBack⟩ := decodes_moves_writesRd set other
  refine ⟨decode, memory, writeBack, fun s r w stage hD hb => ?_⟩
  rw [exec_execute stage, execute, ← result hb]
  exact ⟨executeShift_defined g hD hb, executeShift_refused g hD hb⟩

end Sys2Proof.Machine

namespace Sys2Proof.Claims

open Sys2Proof.Machine

/-- Settles O32: four operations of two registers and three of a register and a zero-extended literal. -/
theorem bitwiseLogic : Obligations.BitwiseLogic :=
  ⟨ruleR3 rfl (fun _ _ _ => rfl) (fun _ _ _ => rfl) (fun _ _ _ _ => rfl) andResult_eq,
    ruleI3 rfl (fun _ _ _ => rfl) (fun _ _ _ => rfl) (fun _ _ _ _ => rfl) andiResult_eq_zext,
    ruleR3 rfl (fun _ _ _ => rfl) (fun _ _ _ => rfl) (fun _ _ _ _ => rfl) orResult_eq,
    ruleI3 rfl (fun _ _ _ => rfl) (fun _ _ _ => rfl) (fun _ _ _ _ => rfl) oriResult_eq_zext,
    ruleR3 rfl (fun _ _ _ => rfl) (fun _ _ _ => rfl) (fun _ _ _ _ => rfl) xorResult_eq,
    ruleI3 rfl (fun _ _ _ => rfl) (fun _ _ _ => rfl) (fun _ _ _ _ => rfl) xoriResult_eq_zext,
    ruleR3 rfl (fun _ _ _ => rfl) (fun _ _ _ => rfl) (fun _ _ _ _ => rfl) norResult_eq⟩

/-- Settles O33: a register and a literal amount reach EX as the same resolved operand, so each direction has one rule. -/
theorem shifts : Obligations.Shifts := by
  refine ⟨decodeImage_append_r3 rfl, decodeImage_append_r3 rfl, decodeImage_append_i3 rfl, decodeImage_append_i3 rfl,
    fun d a b imm i shift => ?_⟩
  obtain rfl | rfl | rfl | rfl := shift
  · simpa using shiftStages (i := .sll d a b) (value := fun x y => x <<< (y.toNat % 32)) rfl rfl (fun _ => rfl)
      sllResult_eq
  · simpa using shiftStages (i := .sllImm d a imm) (value := fun x y => x <<< (y.toNat % 32)) rfl rfl (fun _ => rfl)
      sllResult_eq
  · simpa using shiftStages (i := .srl d a b) (value := fun x y => x >>> (y.toNat % 32)) rfl rfl (fun _ => rfl)
      srlResult_eq
  · simpa using shiftStages (i := .srlImm d a imm) (value := fun x y => x >>> (y.toNat % 32)) rfl rfl (fun _ => rfl)
      srlResult_eq

end Sys2Proof.Claims
end

section
/-! PROOF. The branch instructions (43_branch.md). A branch is a condition on its record: EX passes the record on, and writes the
pc where the condition holds, before the same cycle's IF reads it; DE finds the line of the delay slot in F untouched. -/

namespace Sys2Proof.Machine

open Claims

variable {i : Instr} {s t : State} {r : Record} {condition : Record → Bool}

/-! ## The stages of a branch -/

/-- Outside the write-back set, a branch is an instruction that is decoded, and that MEM only moves on (R123, R124). -/
theorem decodes_moves_writesNothing (branch : i.isBranch = true) : Decodes i ∧ Moves i ∧ WritesNothing i := by
  have operation : i ≠ .nop := by
    rintro rfl
    cases branch
  have moving (s : State) : memoryPart i s = memoryPass s := by
    cases i with
    | beq | bne => rfl
    | _ => cases branch
  have outside : ¬ i.writesBack = true := by
    cases i with
    | beq | bne => exact Bool.false_ne_true
    | _ => cases branch
  refine ⟨decodes operation, fun s r stage hE => ?_, fun s stage => ?_⟩
  · rw [exec_memory stage, moving, memoryPass, hE]
  · rw [exec_writeBack stage, if_neg outside]

theorem beqTaken_iff : beqTaken r = true ↔ r.rs = r.branchComparand := beq_iff_eq

theorem bneTaken_iff : bneTaken r = true ↔ r.rs ≠ r.branchComparand := bne_iff_ne

/-- The target of R201 for every resolved third operand. -/
theorem branchPc_eq {w : Word} (h : r.rt = .value w) : branchPc r = (w.setWidth 16).toInt - 1 := by
  simp only [branchPc, h, Rt.word, sext16]

/-- EX of a branch: BRANCH_POLICY may flag it, else the record moves on and the condition decides the pc (R201, U2). -/
theorem executeBranch_some (condition : Record → Bool) (hD : s.latchD = some r) : executeBranch condition s =
    if condition r = true ∧ s.config.branchPolicy = .fault ∧ s.latchF ≠ none then .fault .delaySlotNotBlank
    else .next { s with latchE := some r, pc := if condition r = true then branchPc r else s.pc } := by
  by_cases taken : condition r = true
  · simp [executeBranch, hD, taken]
  · simp [executeBranch, hD, taken]

/-- Under the default BRANCH_POLICY every branch completes (R201, R202). -/
theorem exec_branch (execute : ∀ s, executePart i s = executeBranch condition s) (stage : s.stage = .execute)
    (hD : s.latchD = some r) (policy : s.config.branchPolicy = .literal) :
    exec i s = .next { s with latchE := some r, pc := if condition r = true then branchPc r else s.pc } := by
  rw [exec_execute stage, execute, executeBranch_some condition hD, policy]
  simp

/-- A branch in D that is not flagged goes on to E, and its condition decides the pc (R201, R202). -/
theorem eq_of_evalStage_execute_branch (execute : ∀ s, executePart i s = executeBranch condition s)
    (h : evalStage .execute s = .next t) (hD : s.latchD = some r) (hop : r.opcode = .known i) :
    t = { s with
      stage := .execute, latchE := some r, pc := if condition r = true then branchPc r else s.pc } := by
  have front : latchInstr s.latchD = some i := hD ▸ latchInstr_some.mpr hop
  rw [evalStage_execute, front] at h
  simp only [execute] at h
  rw [executeBranch_some (s := { s with stage := .execute }) condition hD] at h
  split at h
  · cases h
  · exact (Host.Outcome.next.inj h).symm

/-! ## The cycle around it -/

/-- The execute stage of a cycle finds D and the pc as the cycle did, and only IF moves the pc after it (R120). -/
theorem evalCycle_execute (h : evalCycle s = .next t) : ∃ s₂ s₃, evalStage .execute s₂ = .next s₃ ∧
    s₂.latchD = s.latchD ∧ s₂.pc = s.pc ∧ t.latchE = s₃.latchE ∧ t.pc = s₃.pc + 1 := by
  obtain ⟨s₂, s₃, s₄, s₅, h₂, h₃, h₄, h₅, rfl⟩ := evalCycle_next h
  rw [writeBackState_eq] at h₂
  obtain ⟨_, _, _, rfl, -⟩ := evalStage_memory_effect h₂
  obtain ⟨_, _, rfl, -⟩ := evalStage_decode_next h₄
  obtain ⟨_, _, rfl, -⟩ := evalStage_fetch_effect h₅
  exact ⟨_, s₃, h₃, rfl, rfl, rfl, rfl⟩

/-- The cycle of a branch: its record goes on to E, and IF moves on from the pc its condition decides (R203). -/
theorem evalCycle_branch (execute : ∀ s, executePart i s = executeBranch condition s) (h : evalCycle s = .next t)
    (hD : s.latchD = some r) (hop : r.opcode = .known i) :
    t.latchE = some r ∧ t.pc = (if condition r = true then branchPc r else s.pc) + 1 := by
  obtain ⟨s₂, s₃, h₃, latchD, pc, latchE, pc'⟩ := evalCycle_execute h
  obtain rfl := eq_of_evalStage_execute_branch execute h₃ (latchD.trans hD) hop
  exact ⟨latchE, pc ▸ pc'⟩

theorem latchD_of_evalStage_decode_none (h : evalStage .decode s = .next t) (hF : s.latchF = none) : t.latchD = none := by
  rw [evalStage_decode, hF] at h
  cases h
  rfl

/-- DE makes a record of every line but a blank one, of an unknown mnemonic's too (R127). -/
theorem latchD_of_evalStage_decode_some {f : FetchRecord} (h : evalStage .decode s = .next t) (hF : s.latchF = some f)
    (line : f.raw.decode ≠ .instr .nop) : ∃ r, t.latchD = some r ∧ r.address = f.address ∧ r.raw = f.raw := by
  cases hd : f.raw.decode with
  | instr j =>
    have operation : j ≠ .nop := by
      rintro rfl
      exact line hd
    obtain rfl := eq_of_evalStage_decode h hF hd operation
    exact ⟨_, rfl, decodeFill_address _ _ _, decodeFill_raw _ _ _⟩
  | unknown m =>
    simp only [evalStage_decode, hF, hd] at h
    cases h
    exact ⟨_, rfl, rfl, rfl⟩
  | illFormed why =>
    simp only [evalStage_decode, hF, hd] at h
    cases h

end Sys2Proof.Machine

namespace Sys2Proof.Claims

open Sys2Proof.Machine

/-- Settles O45: the condition decides the pc before IF, which fetches there, and DE has read the line in F. -/
theorem takenBranchHasOneDelaySlot : Obligations.TakenBranchHasOneDelaySlot := by
  intro s t r w i taken evaluates hD hb hop branch h
  obtain ⟨condition, execute, rfl⟩ : ∃ condition : Record → Bool,
      (∀ s, executePart i s = executeBranch condition s) ∧ condition r = taken := by
    obtain ⟨a, b, tgt, rfl, equal⟩ | ⟨a, b, tgt, rfl, differ⟩ := branch
    · exact ⟨beqTaken, fun _ => rfl, Bool.eq_iff_iff.mpr (beqTaken_iff.trans equal.symm)⟩
    · exact ⟨bneTaken, fun _ => rfl, Bool.eq_iff_iff.mpr (bneTaken_iff.trans differ.symm)⟩
  obtain ⟨-, -, p, hp, -, -, inside, outside⟩ := cycleCounterPcAndFetch s t evaluates h
  obtain ⟨running, test⟩ := evaluates
  rw [step_running running test] at h
  obtain ⟨latchE, pc⟩ := evalCycle_branch execute h hD hop
  obtain ⟨s₃, s₄, decode, latchF, -, latchD⟩ := evalCycle_decode h
  obtain rfl : p = t.pc - 1 := by omega
  refine ⟨latchE, fun empty => ?_, fun f hF line => ?_, fun taken => ?_, fun straight => ?_, fun l positive hl text => ?_,
    fun low => outside (.inl (by omega))⟩
  · exact latchD.trans (latchD_of_evalStage_decode_none decode (latchF.trans empty))
  · rw [latchD]
    exact latchD_of_evalStage_decode_some decode (latchF.trans hF) line
  · rw [pc, if_pos taken, branchPc_eq hb, Int.sub_add_cancel]
  · rw [pc, straight]
    rfl
  · rw [inside l (by omega) hl, text]
    rfl

/-- Settles O37: each branch is a condition on its record, and the two conditions exclude each other. -/
theorem branches : Obligations.Branches := by
  refine ⟨decodeImage_append_i3 rfl, decodeImage_append_i3 rfl, fun a b tgt => ?_⟩
  obtain ⟨decodeBeq, memoryBeq, writeBackBeq⟩ := decodes_moves_writesNothing (i := .beq a b tgt) rfl
  obtain ⟨decodeBne, memoryBne, writeBackBne⟩ := decodes_moves_writesNothing (i := .bne a b tgt) rfl
  refine ⟨decodeBeq, memoryBeq, writeBackBeq, decodeBne, memoryBne, writeBackBne, fun s r w stage hD hb policy => ?_⟩
  rw [exec_branch (i := .beq a b tgt) (condition := beqTaken) (fun _ => rfl) stage hD policy,
    exec_branch (i := .bne a b tgt) (condition := bneTaken) (fun _ => rfl) stage hD policy, ← branchPc_eq hb]
  simp only [beqTaken_iff, bneTaken_iff]
  exact ⟨fun equal => ⟨by rw [if_pos equal], by rw [if_neg (not_not.mpr equal)]⟩,
    fun differ => ⟨by rw [if_pos differ], by rw [if_neg differ]⟩⟩

end Sys2Proof.Claims
end

section
/-! PROOF. LW and SW (44_load_store.md). Decode and execute of the two are alike; the access is in MEM, so a LW in the slot after
a SW finds its word stored one cycle before. -/

namespace Sys2Proof

/-- Fields of 6, 5, 5 and 16 bits side by side are an image word (R98). -/
theorem append_eq_imageWord (op : BitVec 6) (x y : BitVec 5) (v : BitVec 16) :
    op ++ x ++ y ++ v = imageWord op.toNat x.toNat y.toNat v.toNat := by
  apply BitVec.eq_of_toNat_eq
  rw [Laws.toNat_imageWord op.isLt x.isLt y.isLt v.isLt]
  simp only [toNat_append_eq_add]
  omega

theorem decodeImage_append_m {op : BitVec 6} {f : Nat → Lit → Nat → Instr} (format : formats[op.toNat]? = some (.m f))
    (t b : BitVec 5) (v : BitVec 16) : decodeImage (op ++ t ++ b ++ v) = .instr (f t.toNat ⟨v, false⟩ b.toNat) := by
  obtain ⟨image, wf⟩ := format_written format t.toNat ⟨v, false⟩ b.toNat
  rw [append_eq_imageWord, ← image, decodeImage_encode]
  simp [wf, regWf, t.isLt, b.isLt, Lit.wf]

end Sys2Proof

namespace Sys2Proof.Machine

open Claims

variable {i : Instr} {s t : State} {r : Record}

/-! ## The stages of LW and SW -/

theorem passes (execute : ∀ s, executePart i s = executePass s) : Passes i := by
  intro s r stage hD
  rw [exec_execute stage, execute, executePass, hD]

theorem writesNothing (outside : i.writesBack = false) : WritesNothing i := by
  intro s stage
  rw [exec_writeBack stage, outside]
  rfl

theorem memoryLoad_some (hE : s.latchE = some r) : memoryLoad s =
    .next ({ s with latchM := some { r with result := s.readWord r.memoryAddress } }.report
      (s.accessReports r.memoryAddress)) := by
  rw [memoryLoad, hE]

theorem memoryStore_some (hE : s.latchE = some r) : memoryStore s =
    .next ({ s with latchM := some r, mem := s.storeWord r.memoryAddress r.memoryValue }.report
      (s.accessReports r.memoryAddress)) := by
  rw [memoryStore, hE]

/-- A word stored at a valid address is what a read at that address finds (R59). -/
theorem State.readWord_eq_of_stored {a : Int} {w : Word} (config : t.config = s.config) (stored : t.mem = s.storeWord a w)
    (hm : s.mem.wf s.config.memBytes = true) (h0 : 0 ≤ a) (h4 : a + 4 ≤ s.config.memBytes) : t.readWord a = w := by
  rw [t.readWord_of_valid h0 (config ▸ h4), stored, s.storeWord_of_valid h0 h4, Memory.wordAt_setWord hm]

/-! ## The cycle around them -/

/-- The memory stage of a cycle finds E, memory and the parameters as the cycle did, and no later stage changes what it leaves
(R120). -/
theorem evalCycle_memory (h : evalCycle s = .next t) (hE : s.latchE = some r) (hop : r.opcode = .known i) :
    ∃ s₁ s₂, memoryPart i s₁ = .next s₂ ∧ s₁.latchE = some r ∧ s₁.mem = s.mem ∧ s₁.config = s.config ∧
      t.latchM = s₂.latchM ∧ t.mem = s₂.mem := by
  obtain ⟨s₂, s₃, s₄, s₅, h₂, h₃, h₄, h₅, rfl⟩ := evalCycle_next h
  rw [writeBackState_eq, evalStage_memory] at h₂
  simp only [hE, latchInstr_some.mpr hop] at h₂
  obtain ⟨_, _, _, _, rfl, -⟩ := evalStage_execute_effect h₃
  obtain ⟨_, _, rfl, -⟩ := evalStage_decode_next h₄
  obtain ⟨_, _, rfl, -⟩ := evalStage_fetch_effect h₅
  exact ⟨_, s₂, h₂, rfl, rfl, rfl, rfl, rfl⟩

/-- After the cycle with a SW in E its word is stored (R212). -/
theorem evalCycle_store {x b : Nat} {off : Lit} (h : evalCycle s = .next t) (hE : s.latchE = some r)
    (hop : r.opcode = .known (.sw x off b)) : t.mem = s.storeWord r.memoryAddress r.memoryValue := by
  obtain ⟨s₁, s₂, part, latchE, mem₁, config₁, -, mem⟩ := evalCycle_memory h hE hop
  rw [memoryPart, memoryStore_some latchE, State.storeWord_congr config₁ mem₁] at part
  cases part
  exact mem

/-- After the cycle with a LW in E, M holds it with the word that memory held before the cycle (R211). -/
theorem evalCycle_load {y b : Nat} {off : Lit} (h : evalCycle s = .next t) (hE : s.latchE = some r)
    (hop : r.opcode = .known (.lw y off b)) :
    t.latchM = some { r with result := s.readWord r.memoryAddress } := by
  obtain ⟨s₁, s₂, part, latchE, mem₁, config₁, latchM, -⟩ := evalCycle_memory h hE hop
  rw [memoryPart, memoryLoad_some latchE, State.readWord_congr config₁ mem₁] at part
  cases part
  exact latchM

/-- After the cycle with an instruction in D whose execute stage passes its record on, E holds that record (R126). -/
theorem evalCycle_pass (execute : ∀ s, executePart i s = executePass s) (h : evalCycle s = .next t)
    (hD : s.latchD = some r) (hop : r.opcode = .known i) : t.latchE = some r := by
  obtain ⟨s₂, s₃, h₃, latchD, -, latchE, -⟩ := evalCycle_execute h
  have front : latchInstr s₂.latchD = some i := latchD.trans hD ▸ latchInstr_some.mpr hop
  rw [evalStage_execute, front] at h₃
  simp only [execute, executePass] at h₃
  cases h₃
  exact latchE.trans (latchD.trans hD)

end Sys2Proof.Machine

namespace Sys2Proof.Claims

open Sys2Proof.Machine

/-- Settles O47: the first cycle stores the word and moves the LW on to E, the second reads the memory the first has left. -/
theorem loadSeesPrecedingStore : Obligations.LoadSeesPrecedingStore := by
  rintro s t rS rL x y bx by' ox oy ⟨running, test⟩ below hm hE hopS hD hopL same h0 h4 h
  obtain ⟨u, h₁, h₂⟩ := Result.andThen_eq_next.mp h
  rw [advanceCycles_succ] at h₂
  obtain ⟨_, h₂, ⟨⟩⟩ := Result.andThen_eq_next.mp h₂
  rw [step_running running test] at h₁
  have effect : CycleEffect s u := evalCycle_effect h₁
  have stored : u.mem = s.storeWord rS.memoryAddress rS.memoryValue :=
    evalCycle_store (s := { s with reports := [] }) h₁ hE hopS
  have latchE : u.latchE = some rL := evalCycle_pass (fun _ => rfl) h₁ hD hopL
  obtain ⟨running', test'⟩ : Evaluates u := by
    refine evaluates_of_latch (effect.runState ▸ running) (by rw [effect.cycles, effect.config]; omega) ?_
    simp [State.latchesEmpty, latchE]
  rw [step_running running' test'] at h₂
  refine ⟨_, evalCycle_load h₂ latchE hopL, rfl, rfl, ?_⟩
  rw [same]
  exact State.readWord_eq_of_stored effect.config stored hm h0 h4

/-- Settles O35: LW passes EX, and its access in MEM is a word read. -/
theorem loadWord : Obligations.LoadWord := by
  refine ⟨decodeImage_append_m rfl, fun t off b => ⟨decodes (by simp), passes fun _ => rfl, writesRd rfl,
    fun s r stage hE => ?_⟩⟩
  rw [exec_memory stage, memoryPart, memoryLoad_some hE]
  refine ⟨fun h0 h4 => ?_, fun failing => ?_⟩
  · obtain ⟨-, -, valid⟩ := boundsCheck s r.memoryAddress
    rw [valid h0 h4, State.report_nil, s.readWord_of_valid h0 h4, Memory.wordAt]
  · rw [s.readWord_of_invalid failing]

/-- Settles O36: SW passes EX, its access in MEM is a word store of its record's value, and WB leaves it out. -/
theorem storeWord : Obligations.StoreWord := by
  refine ⟨decodeImage_append_m rfl, fun t off b => ⟨decodes (by simp), passes fun _ => rfl, writesNothing rfl,
    fun s r stage hE => ?_⟩⟩
  rw [exec_memory stage, memoryPart, memoryStore_some hE]
  refine ⟨_, rfl, fun failing => s.storeWord_of_invalid failing _, fun h0 h4 hm k hk => ?_⟩
  rw [s.storeWord_of_valid h0 h4, Memory.byteAt_setWord hm, if_pos (by omega), Nat.add_sub_cancel_left]

end Sys2Proof.Claims
end

section
/-! PROOF. LI, LUI, NOP and unknown mnemonics (45_immediate_load.md). A load of a literal computes a register from `rs` alone;
an unknown mnemonic is fetched as NOP is and has one shared operation for each later stage. -/

namespace Sys2Proof

theorem decodeImage_append_i2 {op : BitVec 6} {f : Nat → Lit → Instr} (format : formats[op.toNat]? = some (.i2 f))
    (d : BitVec 5) (v : BitVec 16) : decodeImage (op ++ d ++ 0#5 ++ v) = .instr (f d.toNat ⟨v, false⟩) := by
  obtain ⟨image, wf⟩ := format_written format d.toNat ⟨v, false⟩
  rw [append_eq_imageWord, BitVec.toNat_zero, ← image, decodeImage_encode]
  simp [wf, regWf, d.isLt, Lit.wf]

end Sys2Proof

namespace Sys2Proof.Machine

open Claims

variable {s : State}

/-! ## LI and LUI -/

/-- The whole rule of an instruction with a literal at token 2 that computes `value` of it. -/
theorem ruleI2 {op : BitVec 6} {f : Nat → Lit → Instr} {g : Record → Word} {value : Word → Word}
    (format : formats[op.toNat]? = some (.i2 f)) (set : ∀ d imm, (f d imm).writesBack = true)
    (other : ∀ d imm, isLoad (f d imm) = false) (execute : ∀ d imm s, executePart (f d imm) s = executeResult g s)
    (result : ∀ r : Record, g r = value r.rs) : RuleI2 op f value := by
  refine ⟨decodeImage_append_i2 format, fun d imm => ?_⟩
  obtain ⟨decode, memory, writeBack⟩ := decodes_moves_writesRd (set d imm) (other d imm)
  refine ⟨decode, memory, writeBack, fun s r stage hD => ?_⟩
  rw [exec_execute stage, execute, executeResult_some g hD, result]

theorem liResult_eq_sext (r : Record) : liResult r = sext r.rs := u32_sext16 r.rs

theorem luiResult_eq_zext (r : Record) : luiResult r = zext r.rs <<< 16 := by
  rw [luiResult, zext16_eq_zext]

/-! ## The stages of an unknown mnemonic -/

section Unknown

variable (m : List Char)

theorem passUnknown_fetch (stage : s.stage = .fetch) : passUnknown m s = fetchLine s := by
  simp only [passUnknown, inStage, stage]

theorem passUnknown_decode (stage : s.stage = .decode) : passUnknown m s = decodeUnknown m s := by
  simp only [passUnknown, inStage, stage]

theorem passUnknown_execute (stage : s.stage = .execute) : passUnknown m s = executePass s := by
  simp only [passUnknown, inStage, stage]

theorem passUnknown_memory (stage : s.stage = .memory) : passUnknown m s = memoryPass s := by
  simp only [passUnknown, inStage, stage]

theorem decodeUnknown_some {f : FetchRecord} (hF : s.latchF = some f) :
    decodeUnknown m s = .next { s with latchD := some (f.fresh (.unknown m)) } := by
  rw [decodeUnknown, hF]

end Unknown

end Sys2Proof.Machine

namespace Sys2Proof.Claims

open Sys2Proof.Machine

/-- Settles O34: LI and LUI compute two functions of the literal that decode leaves in `rs`. -/
theorem immediateLoads : Obligations.ImmediateLoads :=
  ⟨ruleI2 rfl (fun _ _ => rfl) (fun _ _ => rfl) (fun _ _ _ => rfl) liResult_eq_sext,
    ruleI2 rfl (fun _ _ => rfl) (fun _ _ => rfl) (fun _ _ _ => rfl) luiResult_eq_zext⟩

/-- Settles O38: each stage law of all instructions holds of NOP, and an unknown mnemonic is fetched as NOP is. -/
theorem nopAndUnknown : Obligations.NopAndUnknown := by
  have fetchNop : Fetches (exec .nop) := fetchStage .nop
  have fetchUnknown (m : List Char) : Fetches (passUnknown m) := by
    intro s stage
    rw [passUnknown_fetch m stage, ← exec_fetch stage .nop]
    exact fetchNop s stage
  refine ⟨rfl, rfl, fetchNop, fetchUnknown, fun s => ⟨exec_decode_nop, fun stage => exec_execute stage .nop,
    fun stage => exec_memory stage .nop, fun stage => exec_writeBack stage .nop, fun m => ⟨fun f stage hF => ?_,
    passUnknown_execute m, passUnknown_memory m, fun stage => ?_⟩⟩⟩
  · rw [passUnknown_decode m stage, decodeUnknown_some m hF]
    exact ⟨_, rfl, rfl, rfl, rfl⟩
  · obtain ⟨-, unknown, -⟩ := writeBackSet .nop s stage
    exact unknown m

end Sys2Proof.Claims
end

section
/-! PROOF. Runs under the default policies: a program without a refused line keeps such a line out of latch F, where alone a
cycle could stop. -/

namespace Sys2Proof

theorem Line.wellFormed_iff (l : Line) : l.wellFormed = true ↔ ∀ why, l.decode ≠ .illFormed why := by
  cases hd : l.decode <;> simp [Line.wellFormed, hd]

end Sys2Proof

namespace Sys2Proof.Machine

open Claims

variable {s t : State}

theorem State.programWellFormed_iff (s : State) : s.programWellFormed = true ↔
    (∀ l ∈ s.prog, l.wellFormed = true) ∧ ∀ f, s.latchF = some f → f.raw.wellFormed = true := by
  cases hF : s.latchF <;> simp [State.programWellFormed, hF]

theorem fetchSlot_ne_illFormed (formed : s.programWellFormed = true) (why : IllFormed) :
    fetchSlot s.latchF ≠ .illFormed why := by
  obtain ⟨-, fetched⟩ := s.programWellFormed_iff.mp formed
  cases hF : s.latchF with
  | none => simp [fetchSlot]
  | some f => exact f.raw.wellFormed_iff.mp (fetched f hF) why

/-- What IF puts in F is a line of the program (R132). -/
theorem FetchedAt.raw_mem_prog {p : Int} (fetched : FetchedAt s t p) {f : FetchRecord} (hF : t.latchF = some f) :
    f.raw ∈ s.prog := by
  obtain ⟨-, empty, -⟩ | ⟨l, line, -, latchF⟩ := fetched
  · simp [empty] at hF
  · obtain ⟨-, entry⟩ := State.lineAtPc_eq_some.mp line
    rw [latchF] at hF
    split at hF
    · cases hF
    · cases hF
      exact List.mem_of_getElem? entry

theorem CycleEffect.programWellFormed (effect : CycleEffect s t) (formed : s.programWellFormed = true) :
    t.programWellFormed = true := by
  obtain ⟨lines, -⟩ := s.programWellFormed_iff.mp formed
  obtain ⟨p, -, -, fetched⟩ := effect.fetch
  exact t.programWellFormed_iff.mpr ⟨effect.prog ▸ lines, fun f hF => lines f.raw (fetched.raw_mem_prog hF)⟩

/-- A halt empties F, so only the program's own lines count after it (R135). -/
theorem State.haltTransition_programWellFormed (s : State) (formed : s.programWellFormed = true) :
    s.haltTransition.programWellFormed = true := by
  obtain ⟨lines, -⟩ := s.programWellFormed_iff.mp formed
  exact s.haltTransition.programWellFormed_iff.mpr ⟨lines, by simp⟩

/-- One call answers and keeps the program well formed, whether the core is halted, halts, or runs a cycle (R120, R236). -/
theorem step_of_programWellFormed (policies : s.config.defaultPolicies = true) (formed : s.programWellFormed = true) :
    ∃ t, step s = .next t ∧ t.programWellFormed = true ∧ t.config = s.config := by
  by_cases halted : s.runState = .halted
  · exact ⟨_, step_halted halted, formed, rfl⟩
  · cases test : s.haltTest with
    | true => exact ⟨_, step_halting halted test, s.haltTransition_programWellFormed formed, rfl⟩
    | false =>
      obtain ⟨t, h⟩ := evalCycle_answers (s := { s with reports := [] }) policies (fetchSlot_ne_illFormed formed)
      have effect : CycleEffect s t := evalCycle_effect h
      exact ⟨t, (step_running halted test).trans h, effect.programWellFormed formed, effect.config⟩

end Sys2Proof.Machine

namespace Sys2Proof.Claims

open Sys2Proof.Machine

/-- Settles O17, by induction on the calls: each answers, and leaves what the next one needs. -/
theorem defaultPoliciesNeverStop : Obligations.DefaultPoliciesNeverStop := by
  intro n
  induction n with
  | zero => exact fun s _ formed => ⟨s, rfl, formed, rfl⟩
  | succ n ih =>
    intro s policies formed
    obtain ⟨u, hu, formed_u, config_u⟩ := step_of_programWellFormed policies formed
    obtain ⟨t, ht, formed_t, config_t⟩ := ih u (config_u ▸ policies) formed_u
    exact ⟨t, by rw [advanceCycles_succ, hu, Result.andThen_next, ht], formed_t, config_t.trans config_u⟩

end Sys2Proof.Claims
end

section
/-! PROOF. The boundary operations (70_reset_and_hazards.md R260 to R268): each keeps the invariant, what `reset()`,
`stop()` and `loadProgram` leave, and that `run()` is a number of calls of `stepOnce()`. -/

namespace Sys2Proof

/-- Trimming leaves nothing exactly of white space (R80). -/
theorem trim_eq_nil_iff (l : List Char) : trim l = [] ↔ ∀ c ∈ l, isSpace c = true := by
  rw [trim_eq, List.rdropWhile_eq_nil_iff]
  refine ⟨fun rest => ?_, fun all c hc => all c ((List.dropWhile_sublist _).mem hc)⟩
  rw [← l.takeWhile_append_dropWhile (p := isSpace)]
  intro c hc
  obtain first | last := List.mem_append.mp hc
  · exact List.mem_takeWhile_imp first
  · exact rest c last

/-- A normalised line is blank when there is only white space before the comment (R81). -/
theorem isBlank_normalise_iff (line : List Char) : (Line.text (normalise line)).isBlank = true ↔
    ∀ c ∈ line.takeWhile (· != '#'), isSpace c = true := by
  rw [Line.isBlank, List.isEmpty_iff, normalise, List.map_eq_nil_iff, trim_eq_nil_iff]

end Sys2Proof

namespace Sys2Proof.Machine

open Claims

variable {s t : State}

/-! ## The invariant under the operations of the host -/

theorem Inv.beginOp (h : Inv s) : Inv s.beginOp := h.setReports []

theorem Inv.report (h : Inv s) (ks : List Report) : Inv (s.report ks) := { h with }

theorem Inv.stopOp (h : Inv s) : Inv s.stopOp where
  config_wf := h.config_wf
  reg_zero := h.reg_zero
  mem_wf := h.mem_wf
  baseline_wf := h.baseline_wf
  stage_start := rfl
  cycles_le := Nat.zero_le _
  pc_low := by simp
  pc_high := by simp
  current_line := by simp
  halted_clean := by simp
  halt_cause := by simp
  fetched_not_blank := by simp
  recordD := by simp
  recordE := by simp
  recordM := by simp

/-- `reset()` is `stop()` with registers, HI and memory cleared too (R260, R262). -/
theorem Inv.resetOp (h : Inv s) : Inv s.resetOp := { h.stopOp with reg_zero := by simp, mem_wf := rfl }

theorem Inv.snapshot (h : Inv s) : Inv s.snapshot := { h with baseline_wf := h.mem_wf }

theorem Inv.restore (h : Inv s) : Inv s.restore := { h with reg_zero := by simp, mem_wf := h.baseline_wf }

/-- The Program Store does not occur in the invariant. -/
theorem Inv.setProg (h : Inv s) (lines : List Line) : Inv { s.beginOp with prog := lines } := { h with }

theorem Inv.writeReg (h : Inv s) (k : Nat) (v : Word) : Inv (s.writeReg k v) := by
  have reg_zero : (s.writeReg k v).regs[0] = 0 := (s.writeReg_regs_zero k v).trans h.reg_zero
  rw [s.writeReg_eq k v]
  exact { h with reg_zero }

theorem Inv.hostWriteWord (h : Inv s) (a v : Int) : Inv (s.hostWriteWord a v) :=
  { h with mem_wf := s.wf_storeWord a _ h.mem_wf }

/-- The run states other than `Halted` are alike to the invariant. -/
theorem Inv.setRunState (h : Inv s) (running : s.runState ≠ .halted) {r : RunState} (hr : r ≠ .halted) :
    Inv { s with runState := r } :=
  { h with
    halted_clean := fun halted => absurd halted hr
    halt_cause := iff_of_false (mt h.halt_cause.mp running) hr }

theorem Inv.stepOnce (h : Inv s) (hs : stepOnce s = .next t) : Inv t := by
  obtain ⟨u, hu, ⟨⟩⟩ := Result.andThen_eq_next.mp hs
  have start : Inv (if s.runState = .idle then { s with runState := .steppingOnce } else s) := by
    split
    · next idle => exact h.setRunState (by simp [idle]) (by decide)
    · exact h
  have after : Inv u := stepKeepsInvariant _ _ start hu
  unfold settleRunState
  split
  · next settle => exact after.setRunState settle.2 (by decide)
  · exact after

theorem Inv.runLoop {n : Nat} (h : Inv s) (hs : runLoop n s = .next t) : Inv t := by
  induction n generalizing s with
  | zero => cases hs; exact h
  | succ n ih =>
    rw [Machine.runLoop] at hs
    split at hs
    · cases hs; exact h
    · obtain ⟨u, hu, hs⟩ := Result.andThen_eq_next.mp hs
      exact ih (stepKeepsInvariant s u h hu) hs

theorem Inv.runFor {n : Nat} (h : Inv s) (hs : runFor n s = .next t) : Inv t := by
  refine Inv.runLoop ?_ hs
  split
  · next idle => exact h.beginOp.setRunState (by simp [idle]) (by decide)
  · exact h.beginOp

/-! ## `run()` and `stepOnce()` -/

theorem runLoop_halted (n : Nat) (halted : s.runState = .halted) : runLoop n s = .next s := by
  cases n with
  | zero => rfl
  | succ n => exact if_pos halted

theorem runLoop_running (n : Nat) (running : s.runState ≠ .halted) :
    runLoop (n + 1) s = Result.andThen (step s) (runLoop n) := if_neg running

/-- `stepOnce()` on a halted core only empties the report list (R136, R263). -/
theorem stepOnce_halted (halted : s.runState = .halted) : stepOnce s = .next { s with reports := [] } := by
  have busy : s.runState ≠ .idle := by simp [halted]
  rw [stepOnce, if_neg busy, step_halted halted, Result.andThen_next, settleRunState, if_neg fun idle => busy idle.1]

/-- `stepOnce()` on an idle core is a step, after which the core is idle again unless it halts (R261, R263). -/
theorem stepOnce_idle (idle : s.runState = .idle) (h : step { s with runState := .steppingOnce } = .next t) :
    stepOnce s = .next (if t.runState ≠ .halted then { t with runState := .idle } else t) := by
  rw [stepOnce, if_pos idle, h, Result.andThen_next, settleRunState]
  simp only [idle, true_and]

/-- A running core and a stepped core that are the same but for their labels stay so. -/
theorem stepOnceTimes_of_runLoop {n : Nat} {a b : State} (same : SameCore a b)
    (halted : a.runState = .halted ↔ b.runState = .halted) (settled : b.runState = .idle ∨ b.runState = .halted)
    (h : runLoop n a = .next t) :
    ∃ u, stepOnceTimes n b = .next u ∧ SameCore t u ∧ (t.runState = .halted ↔ u.runState = .halted) ∧
      (u.runState = .idle ∨ u.runState = .halted) := by
  induction n generalizing a b with
  | zero => cases h; exact ⟨b, rfl, same, halted, settled⟩
  | succ n ih =>
    by_cases ha : a.runState = .halted
    · have hb : b.runState = .halted := halted.mp ha
      rw [runLoop_halted _ ha, ← runLoop_halted n ha] at h
      simp only [stepOnceTimes, stepOnce_halted hb, Result.andThen_next]
      exact ih (b := { b with reports := [] }) same halted settled h
    · have idle : b.runState = .idle := settled.resolve_right (mt halted.mpr ha)
      rw [runLoop_running n ha] at h
      obtain ⟨a', hstep, h⟩ := Result.andThen_eq_next.mp h
      obtain ⟨alike, -⟩ := reportsAndRunStateDoNotInfluence a { b with runState := .steppingOnce } same (by simp [ha])
      obtain ⟨b', hstep', same', -, halted'⟩ := alike a' hstep
      simp only [stepOnceTimes, stepOnce_idle idle hstep', Result.andThen_next]
      split
      · next running => exact ih (b := { b' with runState := .idle }) same' (by simp [halted', running]) (.inl rfl) h
      · next stopped => exact ih same' halted' (.inr (not_not.mp stopped)) h

end Sys2Proof.Machine

namespace Sys2Proof.Claims

open Sys2Proof.Machine

/-- Settles O53: the two states have the same fields. -/
theorem resetOperation : Obligations.ResetOperation := fun _ => ⟨rfl, rfl⟩

/-- Settles O54: the fields of the two operations, and what trimming leaves of a line without its comment. -/
theorem stopAndLoadProgram : Obligations.StopAndLoadProgram := by
  refine fun s lines => ⟨rfl, rfl, by simp, fun k line hk => ⟨?_, isBlank_normalise_iff line⟩⟩
  rw [State.loadProgram_prog, List.getElem?_map, hk, Option.map_some]

/-- Settles O11: one lemma for each operation; reads only report. -/
theorem hostOperationsKeepInvariant : Obligations.HostOperationsKeepInvariant :=
  fun _ h => ⟨h.resetOp, h.stopOp, h.snapshot, h.restore, fun _ => h.setProg _, fun _ => h.setProg _,
    fun _ => h.beginOp.report _, fun _ _ => h.beginOp.writeReg _ _, fun _ => h.beginOp.report _,
    fun _ _ => h.hostWriteWord _ _, fun _ => h.stepOnce, fun _ _ => h.runFor⟩

/-- Settles O56, by induction on the cycles: run state and report lists influence no step. -/
theorem runIsRepeatedStepOnce : Obligations.RunIsRepeatedStepOnce := by
  intro n s t idle h
  rw [runFor, if_pos idle] at h
  have same : SameCore { s.beginOp with runState := .running } s := rfl
  exact stepOnceTimes_of_runLoop same (by simp [idle]) (.inl idle) h

end Sys2Proof.Claims
end

section
/-! PROOF. The constructs the policies name, and HI between neighbours: a decode-time read too close to its producer, a
taken branch with a line in its delay slot, and the remainder of a DIV that the MFHI in the next slot finds. -/

namespace Sys2Proof.Machine

open Claims

variable {i : Instr} {s t : State} {r : Record}

/-! ## What the policies flag -/

theorem pendingWrite_iff (latch : Option Record) (k : Nat) : pendingWrite latch k = true ↔
    ∃ r j, latch = some r ∧ r.opcode = .known j ∧ j.writesBack = true ∧ r.rd = k ∧ 0 < k ∧ k < 32 := by
  cases latch with
  | none => simp [pendingWrite]
  | some r => cases hop : r.opcode <;> simp [pendingWrite, hop, Nat.pos_iff_ne_zero, and_assoc]

/-- A hazard is a producer in E or M of a register that is read (R275, U1). -/
theorem State.hazard_iff (s : State) (i : Instr) : s.hazard i = true ↔
    ∃ r j, (s.latchE = some r ∨ s.latchM = some r) ∧ r.opcode = .known j ∧ j.writesBack = true ∧
      r.rd ∈ i.sources ∧ 0 < r.rd ∧ r.rd < 32 := by
  simp only [State.hazard, List.any_eq_true, Bool.or_eq_true, pendingWrite_iff]
  constructor
  · rintro ⟨k, read, ⟨r, j, latch, hop, set, rfl, range⟩ | ⟨r, j, latch, hop, set, rfl, range⟩⟩
    · exact ⟨r, j, .inl latch, hop, set, read, range⟩
    · exact ⟨r, j, .inr latch, hop, set, read, range⟩
  · rintro ⟨r, j, latch, hop, set, read, range⟩
    exact ⟨r.rd, read, latch.imp (fun h => ⟨r, j, h, hop, set, rfl, range⟩) fun h => ⟨r, j, h, hop, set, rfl, range⟩⟩

/-- DE of a fetched instruction under HAZARD_POLICY = fault is flagged for a hazard only (U1). -/
theorem exec_decode_fault_iff {f : FetchRecord} (operation : i ≠ .nop) (stage : s.stage = .decode)
    (hF : s.latchF = some f) (policy : s.config.hazardPolicy = .fault) :
    exec i s = .fault .registerHazard ↔ s.hazard i = true := by
  rw [exec_decode stage operation]
  simp [decodeWith, hF, policy]

/-- EX of a branch under BRANCH_POLICY = fault is flagged when it is taken with a line in F (U2). -/
theorem executeBranch_fault_iff (condition : Record → Bool) (hD : s.latchD = some r)
    (policy : s.config.branchPolicy = .fault) :
    executeBranch condition s = .fault .delaySlotNotBlank ↔ s.latchF ≠ none ∧ condition r = true := by
  rw [executeBranch_some condition hD, policy]
  simp [and_comm]

/-! ## HI in the execute stage -/

/-- The execute stage of a cycle finds D, HI and the parameters as the cycle did, and no later stage changes what it
leaves of E and HI (R120). -/
theorem evalCycle_executePart (h : evalCycle s = .next t) (hD : s.latchD = some r) (hop : r.opcode = .known i) :
    ∃ s₂ s₃, executePart i s₂ = .next s₃ ∧ s₂.latchD = some r ∧ s₂.hi = s.hi ∧ s₂.config = s.config ∧
      t.latchE = s₃.latchE ∧ t.hi = s₃.hi := by
  obtain ⟨s₂, s₃, s₄, s₅, h₂, h₃, h₄, h₅, rfl⟩ := evalCycle_next h
  rw [writeBackState_eq] at h₂
  obtain ⟨_, _, _, rfl, -⟩ := evalStage_memory_effect h₂
  have front : latchInstr s.latchD = some i := hD ▸ latchInstr_some.mpr hop
  rw [evalStage_execute, State.report_latchD, front] at h₃
  obtain ⟨_, _, rfl, -⟩ := evalStage_decode_next h₄
  obtain ⟨_, _, rfl, -⟩ := evalStage_fetch_effect h₅
  exact ⟨_, s₃, h₃, hD, rfl, rfl, rfl, rfl⟩

/-- After the cycle with a DIV in D, HI is its remainder (R166). -/
theorem evalCycle_div {d a b : Nat} (h : evalCycle s = .next t) (hD : s.latchD = some r)
    (hop : r.opcode = .known (.div d a b)) : t.hi = divHigh s.config r := by
  obtain ⟨s₂, s₃, part, latchD, -, config, -, hi⟩ := evalCycle_executePart h hD hop
  simp only [executePart, executeDiv, latchD, config] at part
  cases part
  exact hi

/-- After the cycle with an MFHI in D, E holds it with HI, which is as it was (R170). -/
theorem evalCycle_mfhi {d : Nat} (h : evalCycle s = .next t) (hD : s.latchD = some r)
    (hop : r.opcode = .known (.mfhi d)) : t.latchE = some { r with result := s.hi } ∧ t.hi = s.hi := by
  obtain ⟨s₂, s₃, part, latchD, hi₂, -, latchE, hi⟩ := evalCycle_executePart h hD hop
  rw [executePart, executeResult_some _ latchD, hi₂] at part
  cases part
  exact ⟨latchE, hi⟩

end Sys2Proof.Machine

namespace Sys2Proof.Claims

open Sys2Proof.Machine

/-- Settles O19: the two conditions of DE and of EX, and of the two branches. -/
theorem policiesFlagExactlyTheirConstruct : Obligations.PoliciesFlagExactlyTheirConstruct := by
  refine ⟨fun i s f operation stage hF policy => ?_, fun i s r branch stage hD policy => ?_⟩
  · exact (exec_decode_fault_iff operation stage hF policy).trans (s.hazard_iff i)
  · rw [exec_execute stage]
    cases i with
    | beq => simp [executePart, executeBranch_fault_iff _ hD policy, beqTaken_iff]
    | bne => simp [executePart, executeBranch_fault_iff _ hD policy, bneTaken_iff]
    | _ => cases branch

/-- Settles O46: the first cycle leaves the remainder in HI and the MFHI in D, the second reads HI. -/
theorem highNeedsNoSpacing : Obligations.HighNeedsNoSpacing := by
  intro s t rD f d a b d' evaluates below hD hopD hF hd h
  obtain ⟨u, h₁, h₂⟩ := Result.andThen_eq_next.mp h
  rw [advanceCycles_succ] at h₂
  obtain ⟨_, h₂, ⟨⟩⟩ := Result.andThen_eq_next.mp h₂
  obtain ⟨r, latchD, hop, -, -, rd⟩ := decodeSeesSameCycleWriteBack s u f _ evaluates hF hd (by simp) h₁
  obtain ⟨running, test⟩ := evaluates
  rw [step_running running test] at h₁
  have effect : CycleEffect s u := evalCycle_effect h₁
  have remainder : u.hi = divHigh s.config rD := evalCycle_div (s := { s with reports := [] }) h₁ hD hopD
  obtain ⟨running', test'⟩ : Evaluates u := by
    refine evaluates_of_latch (effect.runState ▸ running) (by rw [effect.cycles, effect.config]; omega) ?_
    simp [State.latchesEmpty, latchD]
  rw [step_running running' test'] at h₂
  obtain ⟨latchE, hi⟩ := evalCycle_mfhi h₂ latchD hop
  exact ⟨hi.trans remainder, _, latchE, hop, rd, remainder⟩

end Sys2Proof.Claims
end

section
/-! PROOF. Straight-line programs in order: in the cycles of a run without branches, registers, memory and HI are what
the instructions fetched so far leave one after another, each with its operands read two instructions early; the distance
of a read-after-write and the spaced program are two such runs. -/

namespace Sys2Proof.Machine

open Claims

variable {s t : State} {code : Nat → Instr} {k : Nat}

/-! ## Several calls -/

/-- A property that every one of the first `n` calls hands on holds after them. -/
theorem advanceCycles_of_steps {P : Nat → State → Prop} {n : Nat} (start : P 0 s)
    (next : ∀ k t, k < n → P k t → ∃ u, step t = .next u ∧ P (k + 1) u) :
    ∃ t, advanceCycles n s = .next t ∧ P n t := by
  induction n with
  | zero => exact ⟨s, rfl, start⟩
  | succ n ih =>
    obtain ⟨t, ht, reached⟩ := ih fun k t hk => next k t (Nat.lt_succ_of_lt hk)
    obtain ⟨u, hu, reached'⟩ := next n t n.lt_succ_self reached
    refine ⟨u, ?_, reached'⟩
    rw [advanceCycles_add, ht, Result.andThen_next, advanceCycles_succ, hu, Result.andThen_next, advanceCycles_zero]

/-- A drained core halts as such, at the ceiling too (R133, R135, log 10). -/
theorem step_of_drained (running : s.runState ≠ .halted) (drained : s.drained = true) :
    step s = .next { s.haltTransition with reports := [] } ∧ s.haltTransition.haltCause = some .drained :=
  ⟨step_halting running (by simp [State.haltTest, drained]), by simp [drained]⟩

/-! ## What passes the pipeline -/

/-- What IF finds `k` lines on: a line of the program, or NOP past its end (R132). -/
def State.lineSlot (s : State) (k : Nat) : Decoded := (s.prog[s.pc.toNat + k]?).elim (.instr .nop) Line.decode

theorem State.lineSlot_of_line {l : Line} (line : s.prog[s.pc.toNat + k]? = some l) : s.lineSlot k = l.decode := by
  rw [State.lineSlot, line, Option.elim_some]

theorem State.lineSlot_of_lineIs {i : Instr} (line : LineIs s (s.pc.toNat + k) i) : s.lineSlot k = .instr i := by
  obtain ⟨l, hl, reading⟩ := line
  rw [State.lineSlot_of_line hl, reading]

theorem State.lineSlot_of_blank (blank : ∀ l, s.prog[s.pc.toNat + k]? = some l → l.isBlank = true) :
    s.lineSlot k = .instr .nop := by
  cases line : s.prog[s.pc.toNat + k]? with
  | none => rw [State.lineSlot, line, Option.elim_none]
  | some l => rw [State.lineSlot_of_line line, l.decode_of_isBlank (blank l line)]

theorem State.lineSlot_of_past (past : (s.prog.length : Int) ≤ s.pc + k) : s.lineSlot k = .instr .nop := by
  refine State.lineSlot_of_blank fun l line => ?_
  obtain ⟨inside, -⟩ := List.getElem?_eq_some_iff.mp line
  omega

/-- What IF reads `k` cycles on (R132). -/
theorem Later.slotAt_fetch (later : Later s k t) (nonneg : 0 ≤ s.pc) :
    slotAt { t with stage := .fetch } = s.lineSlot k := by
  have line : t.lineAtPc = s.prog[s.pc.toNat + k]? := by
    rw [State.lineAtPc, later.pc, later.prog, if_pos (by omega), show (s.pc + k).toNat = s.pc.toNat + k by omega]
  cases entry : s.prog[s.pc.toNat + k]? with
  | none =>
    rw [slotAt_fetch_of_blank (by simp [line, entry]), State.lineSlot_of_blank (by simp [entry])]
  | some l => rw [slotAt_fetch_of_line (line.trans entry), State.lineSlot_of_line entry]

theorem State.latchesEmpty_iff (s : State) : s.latchesEmpty = true ↔
    s.latchF = none ∧ s.latchD = none ∧ s.latchE = none ∧ s.latchM = none := by
  simp only [State.latchesEmpty, Bool.and_eq_true, Option.isNone_iff_eq_none, and_assoc]

/-- What passes the pipeline, oldest first: what four idle latches hold, and then what is fetched. After `k` cycles the
latches M, E, D and F hold the entries from `k` on. -/
def queue {α : Type} (idle : α) (fetched : Nat → α) : Nat → α
  | 0 | 1 | 2 | 3 => idle
  | j + 4 => fetched j

theorem queue_eq_idle {α : Type} {idle : α} {fetched : Nat → α} {j : Nat} (h : ∀ m, j = m + 4 → fetched m = idle) :
    queue idle fetched j = idle :=
  match j, h with
  | 0, _ | 1, _ | 2, _ | 3, _ => rfl
  | m + 4, h => h m rfl

theorem queue_isBranch (straight : ∀ k, (code k).isBranch = false) (j : Nat) : (queue .nop code j).isBranch = false :=
  match j with
  | 0 | 1 | 2 | 3 => rfl
  | m + 4 => straight m

/-- The four entries in the latches, one by one. -/
theorem forall_window_iff {P : Nat → Prop} (k : Nat) :
    (∀ j, k ≤ j → j < k + 4 → P j) ↔ P (k + 3) ∧ P (k + 2) ∧ P (k + 1) ∧ P k := by
  constructor
  · exact fun h => ⟨h _ (by omega) (by omega), h _ (by omega) (by omega), h _ (by omega) (by omega),
      h _ (by omega) (by omega)⟩
  · rintro ⟨h3, h2, h1, h0⟩ j low high
    obtain rfl | rfl | rfl | rfl : j = k ∨ j = k + 1 ∨ j = k + 2 ∨ j = k + 3 := by omega
    all_goals assumption

/-! ## Going on and halting -/

theorem Later.drained_iff (later : Later s k t) : t.drained = true ↔
    (s.prog.length : Int) ≤ s.pc + k ∧ t.latchesEmpty = true := by
  rw [State.drained_iff, later.prog, later.pc]

/-- Below its ceiling a core that is not drained goes on (R133). -/
theorem Later.evaluates (later : Later s k t) (running : s.runState ≠ .halted) (below : s.cycles + k < s.config.ceiling)
    (live : ¬ t.drained = true) : Evaluates t := by
  refine ⟨later.runState ▸ running, ?_⟩
  rw [← later.config, ← later.cycles] at below
  simp [State.haltTest, below, live]

/-! ## The instructions in order -/

/-- `s` after the first `j` entries of the queue, one after another. Each reads its operands as they were two entries
before: its decode stands before the write-back of the two in front of it (R275). -/
def inOrder (s : State) (code : Nat → Instr) : Nat → State
  | 0 | 1 | 2 => s
  | j + 3 => effect (inOrder s code j).readReg (queue .nop code (j + 2)) (inOrder s code (j + 2))

/-- The registers as entry `j` of the queue reads them. -/
def operands (s : State) (code : Nat → Instr) : Nat → Nat → Word
  | 0 | 1 => s.readReg
  | j + 2 => (inOrder s code j).readReg

theorem inOrder_succ (s : State) (code : Nat → Instr) (j : Nat) : inOrder s code (j + 1) =
    effect (operands s code j) (queue .nop code j) (inOrder s code j) :=
  match j with
  | 0 | 1 | _ + 2 => rfl

/-- NOPs change nothing. -/
theorem inOrder_of_nop {m : Nat} (hm : k ≤ m) (nop : ∀ j, k ≤ j → j < m → queue .nop code j = .nop) :
    inOrder s code m = inOrder s code k := by
  induction m, hm using Nat.le_induction with
  | base => rfl
  | succ m hm ih =>
    rw [inOrder_succ, nop m hm m.lt_succ_self, ← ih fun j low high => nop j low (Nat.lt_succ_of_lt high)]
    rfl

theorem effect_config (x : Nat → Word) (i : Instr) (s : State) : (effect x i s).config = s.config := by
  cases i <;> simp [effect]

theorem inOrder_config (s : State) (code : Nat → Instr) (j : Nat) : (inOrder s code j).config = s.config := by
  induction j with
  | zero => rfl
  | succ j ih => rw [inOrder_succ, effect_config, ih]

/-! ## A run of them -/

/-- What the latches hold after `k` cycles: entry `k` is in M, the next ones in E, D and F. -/
def flowAt (s : State) (code : Nat → Instr) (k : Nat) : Flow where
  inF := queue .nop code (k + 3)
  inD := queue .nop code (k + 2)
  readD := operands s code (k + 2)
  inE := queue .nop code (k + 1)
  readE := operands s code (k + 1)
  wordE := written (operands s code (k + 1)) (queue .nop code (k + 1)) (inOrder s code (k + 1))
  inM := queue .nop code k
  readM := operands s code k
  wordM := written (operands s code k) (queue .nop code k) (inOrder s code k)

/-- State `t` is `k` cycles after `s`, in which `code` was fetched. The entries ahead of M have written the registers, those
ahead of E memory, those ahead of D HI. -/
structure Reached (s : State) (code : Nat → Instr) (k : Nat) (t : State) : Prop where
  later : Later s k t
  flow : (flowAt s code k).On t
  regs : t.regs = (inOrder s code k).regs
  mem : t.mem = (inOrder s code (k + 1)).mem
  hi : t.hi = (inOrder s code (k + 2)).hi

theorem Reached.start (code : Nat → Instr) (empty : s.latchesEmpty = true) : Reached s code 0 s where
  later := .start s
  flow := by
    obtain ⟨latchF, latchD, latchE, latchM⟩ := s.latchesEmpty_iff.mp empty
    exact {
      latchF := .empty latchF rfl
      latchD := .empty latchD rfl
      latchE := .empty latchE rfl
      latchM := .empty latchM rfl
      resultE := fun set => by cases set
      resultM := fun set => by cases set }
  regs := rfl
  mem := rfl
  hi := rfl

/-- A cycle that goes on fetches the next instruction and hands the others on (R120). -/
theorem Reached.cycle (reached : Reached s code k t) (evaluates : Evaluates t) (ready : Ready s)
    (straight : ∀ j, (code j).isBranch = false) (front : s.lineSlot k = .instr (code k)) :
    ∃ u, step t = .next u ∧ Reached s code (k + 1) u := by
  have policies : t.config.defaultPolicies = true := reached.later.config ▸ ready.policies
  obtain ⟨u, h, flow, effect⟩ := step_flow evaluates policies reached.flow
    (queue_isBranch straight _)
    ((reached.later.slotAt_fetch ready.pc_nonneg).trans front)
  have config (j : Nat) : t.config = (inOrder s code j).config :=
    reached.later.config.trans (inOrder_config s code j).symm
  have regs : u.regs = (inOrder s code (k + 1)).regs := by
    rw [effect.regs, inOrder_succ, effect_regs_retire]
    exact State.retire_regs_congr reached.regs _ _
  have reads : u.readReg = operands s code (k + 1 + 2) := funext (State.readReg_congr regs)
  have latchD : Holds (operands s code (k + 1 + 2)) u.latchD (queue .nop code (k + 3)) := reads ▸ flow.latchD
  refine ⟨u, h, ⟨reached.later.cycle effect, ?_, regs, ?_, ?_⟩⟩
  · exact {
      latchF := flow.latchF
      latchD := latchD
      latchE := flow.latchE
      latchM := flow.latchM
      resultE := fun set other r hr => (flow.resultE set other r hr).trans (written_congr_hi other reached.hi _)
      resultM := fun set r hr => (flow.resultM set r hr).trans (by
        simp only [Flow.next]
        split
        · next load => exact written_congr_load load (config _) reached.mem _
        · rfl) }
  · rw [effect.mem, inOrder_succ, effect_mem]
    exact memoryAfter_congr (config _) reached.mem _ _
  · rw [effect.hi, inOrder_succ, effect_hi]
    exact highAfter_congr reached.hi _ _

theorem Reached.latchesEmpty_iff (reached : Reached s code k t) : t.latchesEmpty = true ↔
    ∀ j, k ≤ j → j < k + 4 → queue .nop code j = .nop := by
  rw [reached.flow.latchesEmpty_iff, forall_window_iff]
  rfl

/-! ## Running until drained -/

/-- The core has halted, drained, with the registers, HI and memory of `final`. -/
structure HaltedWith (final t : State) : Prop where
  halted : t.runState = .halted
  drained : t.haltCause = some .drained
  regs : t.regs = final.regs
  hi : t.hi = final.hi
  mem : t.mem = final.mem

/-- A drained core is past all its instructions, and halts with what they have left. -/
theorem Reached.halts (reached : Reached s code k t) (ready : Ready s)
    (front : ∀ k, s.lineSlot k = .instr (code k)) (drained : t.drained = true) {m : Nat} (hm : k ≤ m) :
    ∃ u, step t = .next u ∧ HaltedWith (inOrder s code m) u := by
  obtain ⟨past, empty⟩ := reached.later.drained_iff.mp drained
  have rest : ∀ j, k ≤ j → queue .nop code j = .nop := by
    intro j low
    by_cases high : j < k + 4
    · exact reached.latchesEmpty_iff.mp empty j low high
    · refine queue_eq_idle fun i hi => ?_
      have slot : s.lineSlot i = .instr .nop := State.lineSlot_of_past (by omega)
      exact Decoded.instr.inj ((front i).symm.trans slot)
  have final {j : Nat} (hj : k ≤ j) : inOrder s code j = inOrder s code m := by
    rw [inOrder_of_nop hj fun i low _ => rest i low, inOrder_of_nop hm fun i low _ => rest i low]
  have running : t.runState ≠ .halted := reached.later.runState ▸ ready.not_halted
  obtain ⟨h, cause⟩ := step_of_drained running drained
  exact ⟨_, h, rfl, cause, final (Nat.le_refl k) ▸ reached.regs, final (Nat.le_add_right k 2) ▸ reached.hi,
    final (Nat.le_succ k) ▸ reached.mem⟩

/-- After `k` calls of a run of `m` entries the core is still in its cycles, or has halted with what they leave. -/
def RunsOrEnded (s : State) (code : Nat → Instr) (m k : Nat) (t : State) : Prop :=
  (k ≤ m ∧ Reached s code k t) ∨ HaltedWith (inOrder s code m) t

section Run

variable {m : Nat} (ready : Ready s) (straight : ∀ j, (code j).isBranch = false)
  (front : ∀ k, s.lineSlot k = .instr (code k)) (past : (s.prog.length : Int) ≤ s.pc + m)
  (rest : ∀ j, m ≤ j → queue .nop code j = .nop) (below : s.cycles + m ≤ s.config.ceiling)

include ready straight front past rest below

theorem RunsOrEnded.step (h : RunsOrEnded s code m k t) : ∃ u, step t = .next u ∧ RunsOrEnded s code m (k + 1) u := by
  obtain ⟨hk, reached⟩ | ended := h
  · by_cases drained : t.drained = true
    · obtain ⟨u, hu, ended⟩ := reached.halts ready front drained hk
      exact ⟨u, hu, .inr ended⟩
    · have more : k < m := by
        refine lt_of_le_of_ne hk fun last => drained (reached.later.drained_iff.mpr ?_)
        exact last ▸ ⟨past, reached.latchesEmpty_iff.mpr fun j low _ => rest j (last ▸ low)⟩
      have evaluates := reached.later.evaluates ready.not_halted (by omega) drained
      obtain ⟨u, hu, reached'⟩ := reached.cycle evaluates ready straight (front k)
      exact ⟨u, hu, .inl ⟨more, reached'⟩⟩
  · exact ⟨_, step_halted ended.halted, .inr { ended with }⟩

/-- A run whose queue holds NOPs only from entry `m` on is halted after more than `m` calls. -/
theorem haltedWith_inOrder {n : Nat} (hn : m < n) :
    ∃ t, advanceCycles n s = .next t ∧ HaltedWith (inOrder s code m) t := by
  obtain ⟨t, h, reached⟩ := advanceCycles_of_steps (n := n) (P := RunsOrEnded s code m)
    (.inl ⟨Nat.zero_le m, .start code ready.empty⟩) fun _ _ _ running =>
      running.step ready straight front past rest below
  exact ⟨t, h, reached.resolve_left fun running => by omega⟩

end Run

/-! ## Two instructions at a distance -/

/-- Instruction `p`, and `c` standing `n` lines after it. -/
def pairAt (p c : Instr) (n : Nat) (k : Nat) : Instr := if k = 0 then p else if k = n then c else .nop

section Pair

variable {p c : Instr} {n : Nat}

theorem pairAt_first (p c : Instr) (n : Nat) : pairAt p c n 0 = p := rfl

theorem pairAt_second (distance : 1 ≤ n) : pairAt p c n n = c := by
  rw [pairAt, if_neg (by omega), if_pos rfl]

theorem pairAt_other (h0 : k ≠ 0) (hn : k ≠ n) : pairAt p c n k = .nop := by
  rw [pairAt, if_neg h0, if_neg hn]

theorem pairAt_isBranch (straight : p.isBranch = false) (straight' : c.isBranch = false) (k : Nat) :
    (pairAt p c n k).isBranch = false := by
  unfold pairAt
  split_ifs
  · exact straight
  · exact straight'
  · rfl

theorem queue_pairAt_other {j : Nat} (h4 : j ≠ 4) (hn : j ≠ n + 4) : queue .nop (pairAt p c n) j = .nop :=
  queue_eq_idle fun m hm => pairAt_other (by omega) (by omega)

theorem inOrder_pairAt_before {m : Nat} (hm : m ≤ 4) (distance : 1 ≤ n) : inOrder s (pairAt p c n) m = s :=
  inOrder_of_nop (Nat.zero_le m) fun _ _ high => queue_pairAt_other (by omega) (by omega)

/-- Between the two, `p` alone has had its effect. -/
theorem inOrder_pairAt_between {m : Nat} (low : 5 ≤ m) (high : m ≤ n + 4) :
    inOrder s (pairAt p c n) m = settled p s := by
  rw [inOrder_of_nop low fun _ _ _ => queue_pairAt_other (by omega) (by omega), inOrder_succ,
    inOrder_pairAt_before (Nat.le_refl 4) (by omega)]
  rfl

/-- After both, `c` has had its effect too, with the registers it read. -/
theorem inOrder_pairAt_after {m : Nat} (distance : 1 ≤ n) (hm : n + 5 ≤ m) : inOrder s (pairAt p c n) m =
    effect (if n ≤ 2 then s.readReg else (settled p s).readReg) c (settled p s) := by
  have reads : operands s (pairAt p c n) (n + 4) = if n ≤ 2 then s.readReg else (settled p s).readReg := by
    rw [operands]
    split
    · next near => rw [inOrder_pairAt_before (by omega) distance]
    · next far => rw [inOrder_pairAt_between (by omega) (by omega)]
  have second : queue .nop (pairAt p c n) (n + 4) = c := pairAt_second distance
  rw [inOrder_of_nop hm fun _ _ _ => queue_pairAt_other (by omega) (by omega), inOrder_succ, reads, second,
    inOrder_pairAt_between (by omega) (Nat.le_refl _)]

theorem lineSlot_pairAt (distance : 1 ≤ n) (lineP : LineIs s s.pc.toNat p) (lineC : LineIs s (s.pc.toNat + n) c)
    (blank : ∀ k l, s.prog[k]? = some l → s.pc.toNat < k → k ≤ s.pc.toNat + n + 4 → k ≠ s.pc.toNat + n →
      l.isBlank = true) (hk : k < n + 5) : s.lineSlot k = .instr (pairAt p c n k) := by
  by_cases h0 : k = 0
  · rw [h0, pairAt_first]
    exact State.lineSlot_of_lineIs lineP
  · by_cases hn : k = n
    · rw [hn, pairAt_second distance]
      exact State.lineSlot_of_lineIs lineC
    · rw [pairAt_other h0 hn]
      exact State.lineSlot_of_blank fun l hl => blank _ l hl (by omega) (by omega) (by omega)

/-- Until `c` is in the latches the pc is before its line, and then it is in them until it retires (R133). -/
theorem Reached.evaluates_pairAt (reached : Reached s (pairAt p c n) k t) (ready : Ready s) (distance : 1 ≤ n)
    (operation : c ≠ .nop) (lineC : LineIs s (s.pc.toNat + n) c) (hk : k < n + 5)
    (below : s.cycles + k < s.config.ceiling) : Evaluates t := by
  refine reached.later.evaluates ready.not_halted below fun drained => operation ?_
  obtain ⟨past, empty⟩ := reached.later.drained_iff.mp drained
  obtain ⟨l, hl, -⟩ := lineC
  obtain ⟨inside, -⟩ := List.getElem?_eq_some_iff.mp hl
  have nonneg := ready.pc_nonneg
  have second : queue .nop (pairAt p c n) (n + 4) = c := pairAt_second distance
  exact second.symm.trans (reached.latchesEmpty_iff.mp empty (n + 4) (by omega) (by omega))

end Pair

/-! ## A spaced program -/

/-- The instructions of a spaced program, line by line. -/
def spacedCode (is : List Instr) (k : Nat) : Instr := if k % 3 = 0 then is.getD (k / 3) .nop else .nop

theorem spacedCode_cons (i : Instr) (is : List Instr) (k : Nat) : spacedCode (i :: is) (k + 3) = spacedCode is k := by
  rw [spacedCode, spacedCode, Nat.add_mod_right, Nat.add_div_right k (by decide), List.getD_cons_succ]

theorem spacedCode_isBranch {is : List Instr} (straight : ∀ i ∈ is, i.isBranch = false) (k : Nat) :
    (spacedCode is k).isBranch = false := by
  unfold spacedCode
  split
  · rw [List.getD_eq_getElem?_getD]
    cases entry : is[k / 3]? with
    | none => rfl
    | some i => exact straight i (List.mem_of_getElem? entry)
  · rfl

/-- The lines of a spaced program read as its instructions and NOPs. -/
theorem decode_spaced {ls : List Line} {is : List Instr} (reading : ls.map Line.decode = is.map .instr) (k : Nat) :
    ((spaced ls)[k]?).elim (.instr .nop) Line.decode = .instr (spacedCode is k) := by
  induction ls generalizing is k with
  | nil =>
    obtain rfl : is = [] := by simpa using reading.symm
    simp [spaced, spacedCode]
  | cons l ls ih =>
    obtain ⟨i, is, rfl, first, rest⟩ := List.map_eq_cons_iff.mp reading.symm
    match k with
    | 0 => exact first.symm
    | 1 | 2 => rfl
    | k + 3 =>
      rw [spacedCode_cons]
      exact ih rest.symm k

theorem length_spaced (ls : List Line) : (spaced ls).length = 3 * ls.length := by
  simp [spaced, List.length_flatMap, Nat.mul_comm]

/-- Only every third entry of the queue is an instruction. -/
theorem queue_spacedCode_blank {is : List Instr} {j : Nat} (h : j % 3 ≠ 1) : queue .nop (spacedCode is) j = .nop :=
  queue_eq_idle fun m hm => if_neg (by omega)

theorem queue_spacedCode_rest {is : List Instr} {j : Nat} (h : 3 * is.length + 2 ≤ j) :
    queue .nop (spacedCode is) j = .nop := by
  by_cases blank : j % 3 ≠ 1
  · exact queue_spacedCode_blank blank
  · refine queue_eq_idle fun m hm => ?_
    rw [spacedCode, if_pos (by omega), List.getD_eq_default _ _ (by omega)]

/-- With two blank lines after each, an instruction reads what those before it have left. -/
theorem inOrder_spacedCode (s : State) (is : List Instr) (m : Nat) :
    inOrder s (spacedCode is) (3 * m + 2) = (is.take m).foldl (fun u i => settled i u) s := by
  induction m with
  | zero => rfl
  | succ m ih =>
    have entry : queue .nop (spacedCode is) (3 * m + 4) = is.getD m .nop := by
      simp [queue, spacedCode]
    have before : inOrder s (spacedCode is) (3 * m + 4) = inOrder s (spacedCode is) (3 * m + 2) :=
      inOrder_of_nop (by omega) fun j low high => queue_spacedCode_blank (by omega)
    rw [show 3 * (m + 1) + 2 = 3 * m + 4 + 1 by omega, inOrder_succ, operands, entry, before, ih, List.take_add_one,
      List.foldl_append, List.getD_eq_getElem?_getD]
    cases is[m]? <;> rfl

end Sys2Proof.Machine

namespace Sys2Proof.Claims

open Sys2Proof.Machine

/-- Settles O49: the run of the two instructions, of which the second reads its operands two entries early. -/
theorem readAfterWriteDistance : Obligations.ReadAfterWriteDistance := by
  intro s p c n ready distance below _ operation straight straight' lineP lineC blank
  obtain ⟨t, h, reached⟩ := advanceCycles_of_steps (n := n + 5) (P := Reached s (pairAt p c n))
    (.start _ ready.empty) fun k t hk reached =>
      reached.cycle (reached.evaluates_pairAt ready distance operation lineC hk (by omega)) ready
        (pairAt_isBranch straight straight') (lineSlot_pairAt distance lineP lineC blank hk)
  refine ⟨t, h, ?_, ?_, ?_⟩
  · rw [reached.regs, inOrder_pairAt_after distance (by omega)]
  · rw [reached.hi, inOrder_pairAt_after distance (by omega)]
  · rw [reached.mem, inOrder_pairAt_after distance (by omega)]

/-- Settles O50: the run of the spaced lines, whose last instruction is entry `3 * is.length + 1` of the queue. -/
theorem spacedProgramIsSequential : Obligations.SpacedProgramIsSequential := by
  intro s ls is n ready pc cycles prog reading straight ceiling hn
  have length : s.prog.length = 3 * is.length := by
    have lengths : ls.length = is.length := by simpa using congrArg List.length reading
    rw [prog, length_spaced, lengths]
  have front : ∀ k, s.lineSlot k = .instr (spacedCode is k) := by
    intro k
    rw [State.lineSlot, prog, pc, Int.toNat_zero, Nat.zero_add]
    exact decode_spaced reading k
  obtain ⟨t, h, ended⟩ := haltedWith_inOrder (m := 3 * is.length + 2) ready (spacedCode_isBranch straight) front
    (by omega) (fun _ => queue_spacedCode_rest) (by omega) hn
  rw [inOrder_spacedCode, List.take_length] at ended
  exact ⟨t, h, ended.halted, ended.drained, ended.regs, ended.hi, ended.mem⟩

end Sys2Proof.Claims
end

section
/-! PROOF. How long a program without branches runs: what the latches carry, unknown mnemonics too, is the queue of the
lines fetched, so the core goes on to the end of the program and until the last line that is not blank has left latch M. -/

namespace Sys2Proof.Machine

open Claims

variable {s t : State} {d : Decoded} {k : Nat}

/-! ## What a latch carries -/

/-- A latch holds what reads as `d`, and nothing where that is NOP. -/
structure Carries {α : Type} (slot : Option α → Decoded) (l : Option α) (d : Decoded) : Prop where
  slot_eq : slot l = d
  empty : d = .instr .nop → l = none

theorem Carries.isNone_iff {α : Type} {slot : Option α → Decoded} {l : Option α} (h : Carries slot l d)
    (nop : slot none = .instr .nop) : l.isNone = true ↔ d = .instr .nop := by
  rw [Option.isNone_iff_eq_none]
  refine ⟨?_, h.empty⟩
  rintro rfl
  exact h.slot_eq.symm.trans nop

theorem latchSlot_ne_illFormed (l : Option Record) (why : IllFormed) : latchSlot l ≠ .illFormed why := by
  cases l with
  | none => simp [latchSlot]
  | some r => cases hop : r.opcode <;> simp [latchSlot, hop]

theorem latchInstr_eq_none {l : Option Record} {m : List Char} (h : latchSlot l = .unknown m) :
    latchInstr l = none := by
  cases l with
  | none => cases h
  | some r =>
    cases hop : r.opcode with
    | known i => simp [latchSlot, hop] at h
    | unknown m => simp [latchInstr, hop]

/-- A stage that keeps an instruction's reading and passes anything else on moves what a latch carries. -/
theorem Carries.moved {old new : Option Record} (carries : Carries latchSlot old d)
    (instr : ∀ i, latchInstr old = some i → latchInstr new = some i) (unknown : latchInstr old = none → new = old)
    (move : ∀ r, new = some r → ∃ r', old = some r' ∧ r = { r' with result := r.result }) :
    Carries latchSlot new d where
  slot_eq := by
    cases d with
    | instr i => exact latchSlot_eq_instr.mpr (instr i (latchSlot_eq_instr.mp carries.slot_eq))
    | unknown m => rw [unknown (latchInstr_eq_none carries.slot_eq), carries.slot_eq]
    | illFormed why => exact absurd carries.slot_eq (latchSlot_ne_illFormed old why)
  empty nop := by
    rw [Option.eq_none_iff_forall_ne_some]
    intro r hr
    obtain ⟨r', hr', -⟩ := move r hr
    rw [carries.empty nop] at hr'
    cases hr'

/-- MEM moves on what E carries (R124). -/
theorem Carries.memory (h : evalStage .memory s = .next t) (carries : Carries latchSlot s.latchE d) :
    Carries latchSlot t.latchM d := by
  refine carries.moved (fun i hi => ?_) (fun hnone => ?_) ?_
  · obtain ⟨u, hu, slot⟩ := evalStage_memory_moves hi
    obtain rfl := Host.Outcome.next.inj (hu.symm.trans h)
    exact slot
  · rw [evalStage_memory, hnone] at h
    cases h
    rfl
  · obtain ⟨m, mem, ks, rfl, -, move⟩ := evalStage_memory_next h
    exact move

/-- EX moves on what D carries (R125, R126). -/
theorem Carries.execute (h : evalStage .execute s = .next t) (policies : s.config.defaultPolicies = true)
    (carries : Carries latchSlot s.latchD d) : Carries latchSlot t.latchE d := by
  refine carries.moved (fun i hi => ?_) (fun hnone => ?_) ?_
  · obtain ⟨u, hu, slot⟩ := evalStage_execute_moves policies hi
    obtain rfl := Host.Outcome.next.inj (hu.symm.trans h)
    exact slot
  · rw [evalStage_execute, hnone] at h
    cases h
    rfl
  · obtain ⟨e, hi, pc, ks, rfl, -, move⟩ := evalStage_execute_next h
    exact move

/-- DE moves on what F carries, as a record (R127). -/
theorem Carries.decode (h : evalStage .decode s = .next t) (policy : s.config.hazardPolicy = .oldValue)
    (carries : Carries fetchSlot s.latchF d) : Carries latchSlot t.latchD d where
  slot_eq := by
    cases d with
    | instr i =>
      obtain ⟨u, hu, slot⟩ := evalStage_decode_moves policy carries.slot_eq
      obtain rfl := Host.Outcome.next.inj (hu.symm.trans h)
      exact latchSlot_eq_instr.mpr slot
    | unknown m =>
      cases hF : s.latchF with
      | none => exact absurd (hF ▸ carries.slot_eq) (by simp [fetchSlot])
      | some f =>
        have reading : f.raw.decode = .unknown m := by simpa only [hF, fetchSlot] using carries.slot_eq
        simp only [evalStage_decode, hF, reading] at h
        cases h
        rfl
    | illFormed why =>
      rw [evalStage_decode_of_illFormed carries.slot_eq] at h
      cases h
  empty nop := latchD_of_evalStage_decode_none h (carries.empty nop)

/-- IF puts the line at the pc into F, unless it is blank (R132). -/
theorem Carries.fetch {u : State} (fetched : FetchedAt t u t.pc) :
    Carries fetchSlot u.latchF (slotAt { t with stage := .fetch }) := by
  obtain ⟨hl, latchF, -⟩ | ⟨l, hl, -, latchF⟩ := fetched
  · have line : t.lineAtPc = none := hl
    rw [slotAt_fetch_of_blank (by simp [line]), latchF]
    exact ⟨rfl, fun _ => rfl⟩
  · rw [slotAt_fetch_of_line hl, latchF]
    split
    · next blank => exact ⟨(l.decode_of_isBlank blank).symm, fun _ => rfl⟩
    · next text => exact ⟨rfl, fun nop => absurd (Line.isBlank_of_decode_nop nop) text⟩

/-! ## A run of a program without branches -/

theorem State.lineSlot_cases (s : State) (k : Nat) :
    s.lineSlot k = .instr .nop ∨ ∃ l ∈ s.prog, s.lineSlot k = l.decode := by
  cases line : s.prog[s.pc.toNat + k]? with
  | none => exact .inl (State.lineSlot_of_blank (by simp [line]))
  | some l => exact .inr ⟨l, List.mem_of_getElem? line, State.lineSlot_of_line line⟩

/-- No line from the pc on is refused or a branch. -/
structure StraightLines (s : State) : Prop where
  formed : ∀ k why, s.lineSlot k ≠ .illFormed why
  straight : ∀ k i, s.lineSlot k = .instr i → i.isBranch = false

/-- State `t` is `k` cycles after `s`, and its latches carry the lines fetched last. -/
structure Filled (s : State) (k : Nat) (t : State) : Prop where
  later : Later s k t
  latchF : Carries fetchSlot t.latchF (queue (.instr .nop) s.lineSlot (k + 3))
  latchD : Carries latchSlot t.latchD (queue (.instr .nop) s.lineSlot (k + 2))
  latchE : Carries latchSlot t.latchE (queue (.instr .nop) s.lineSlot (k + 1))
  latchM : Carries latchSlot t.latchM (queue (.instr .nop) s.lineSlot k)

theorem Filled.start (empty : s.latchesEmpty = true) : Filled s 0 s := by
  obtain ⟨latchF, latchD, latchE, latchM⟩ := s.latchesEmpty_iff.mp empty
  exact {
    later := .start s
    latchF := ⟨by rw [latchF]; rfl, fun _ => latchF⟩
    latchD := ⟨by rw [latchD]; rfl, fun _ => latchD⟩
    latchE := ⟨by rw [latchE]; rfl, fun _ => latchE⟩
    latchM := ⟨by rw [latchM]; rfl, fun _ => latchM⟩ }

theorem Filled.latchesEmpty_iff (filled : Filled s k t) : t.latchesEmpty = true ↔
    ∀ j, k ≤ j → j < k + 4 → queue (.instr .nop) s.lineSlot j = .instr .nop := by
  simp only [forall_window_iff, State.latchesEmpty, Bool.and_eq_true, filled.latchF.isNone_iff rfl,
    filled.latchD.isNone_iff rfl, filled.latchE.isNone_iff rfl, filled.latchM.isNone_iff rfl, and_assoc]

/-- The cycle of straight lines moves the latches' contents on, and the pc by one (R120). -/
theorem evalCycle_carries {dF dD dE : Decoded} {now : List Report} (policies : t.config.defaultPolicies = true)
    (latchF : Carries fetchSlot t.latchF dF) (latchD : Carries latchSlot t.latchD dD)
    (latchE : Carries latchSlot t.latchE dE) {u : State} (h : evalCycle { t with reports := now } = .next u) :
    Carries latchSlot u.latchD dF ∧ Carries latchSlot u.latchE dD ∧ Carries latchSlot u.latchM dE := by
  obtain ⟨s₂, s₃, s₄, s₅, h₂, h₃, h₄, h₅, rfl⟩ := evalCycle_next h
  rw [writeBackState_eq] at h₂
  have carriedM := latchE.memory h₂
  obtain ⟨_, _, _, rfl, -⟩ := evalStage_memory_effect h₂
  have carriedE := latchD.execute h₃ policies
  obtain ⟨_, _, _, _, rfl, -⟩ := evalStage_execute_effect h₃
  obtain ⟨hazard, -⟩ := (defaultPolicies_iff _).mp policies
  have carriedD := latchF.decode h₄ hazard
  obtain ⟨_, _, rfl, -⟩ := evalStage_decode_next h₄
  obtain ⟨_, _, rfl, -⟩ := evalStage_fetch_effect h₅
  exact ⟨carriedD, carriedE, carriedM⟩

theorem queue_lineSlot_straight (lines : StraightLines s) (j : Nat) {i : Instr}
    (h : queue (.instr .nop) s.lineSlot j = .instr i) : i.isBranch = false :=
  match j, h with
  | 0, h | 1, h | 2, h | 3, h => Decoded.instr.inj h ▸ rfl
  | m + 4, h => lines.straight m i h

theorem queue_lineSlot_formed (lines : StraightLines s) (j : Nat) (why : IllFormed) :
    queue (.instr .nop) s.lineSlot j ≠ .illFormed why :=
  match j with
  | 0 | 1 | 2 | 3 => by simp [queue]
  | m + 4 => lines.formed m why

/-- A cycle that goes on fetches the next line (R120). -/
theorem Filled.cycle (filled : Filled s k t) (evaluates : Evaluates t) (ready : Ready s) (lines : StraightLines s) :
    ∃ u, step t = .next u ∧ Filled s (k + 1) u := by
  obtain ⟨later, latchF, latchD, latchE, latchM⟩ := filled
  have policies : t.config.defaultPolicies = true := later.config ▸ ready.policies
  obtain ⟨u, h⟩ := evalCycle_answers (s := { t with reports := [] }) policies fun why =>
    latchF.slot_eq ▸ queue_lineSlot_formed lines _ why
  have effect : CycleEffect t u := evalCycle_effect h
  obtain ⟨carriedD, carriedE, carriedM⟩ := evalCycle_carries policies latchF latchD latchE h
  obtain ⟨p, hpc, address, fetched⟩ := effect.fetch
  obtain rfl : p = t.pc := by
    obtain same | ⟨r, i, hD, hop, branch, -⟩ := address
    · exact same
    · have slot : latchSlot t.latchD = .instr i := latchSlot_eq_instr.mpr (hD ▸ latchInstr_some.mpr hop)
      have straight := queue_lineSlot_straight lines (k + 2) (latchD.slot_eq.symm.trans slot)
      exact absurd branch (by simp [straight])
  have carriedF := Carries.fetch fetched
  rw [later.slotAt_fetch ready.pc_nonneg] at carriedF
  refine ⟨u, (step_running evaluates.1 evaluates.2).trans h, ⟨?_, carriedF, carriedD, carriedE, carriedM⟩⟩
  exact {
    config := effect.config.trans later.config
    prog := effect.prog.trans later.prog
    runState := effect.runState.trans later.runState
    pc := by rw [hpc, later.pc]; push_cast; omega
    cycles := by rw [effect.cycles, later.cycles]; omega }

/-! ## The last line -/

/-- After `n` cycles the program is past its end with nothing in the latches, and before that it is not. -/
structure DrainsAt (s : State) (n : Nat) : Prop where
  past : (s.prog.length : Int) ≤ s.pc + n
  rest : ∀ j, n ≤ j → queue (.instr .nop) s.lineSlot j = .instr .nop
  live : ∀ k, k < n → s.pc + k < s.prog.length ∨
    ∃ j, k ≤ j ∧ j < k + 4 ∧ queue (.instr .nop) s.lineSlot j ≠ .instr .nop

theorem DrainsAt.evaluates {n : Nat} (drains : DrainsAt s n) (ready : Ready s) (below : s.cycles + n ≤ s.config.ceiling)
    (hk : k < n) (filled : Filled s k t) : Evaluates t := by
  refine filled.later.evaluates ready.not_halted (by omega) fun drained => ?_
  obtain ⟨past, empty⟩ := filled.later.drained_iff.mp drained
  obtain inside | ⟨j, low, high, full⟩ := drains.live k hk
  · omega
  · exact full (filled.latchesEmpty_iff.mp empty j low high)

/-- Such a program evaluates `n` cycles, and is then drained (R133, R282). -/
theorem DrainsAt.run {n : Nat} (drains : DrainsAt s n) (ready : Ready s) (lines : StraightLines s)
    (below : s.cycles + n ≤ s.config.ceiling) :
    ∃ t, advanceCycles n s = .next t ∧ Later s n t ∧ t.drained = true := by
  obtain ⟨t, h, filled⟩ := advanceCycles_of_steps (n := n) (P := Filled s) (.start ready.empty) fun k t hk filled =>
    filled.cycle (drains.evaluates ready below hk filled) ready lines
  have empty : t.latchesEmpty = true := filled.latchesEmpty_iff.mpr fun j low _ => drains.rest j low
  exact ⟨t, h, filled.later, filled.later.drained_iff.mpr ⟨drains.past, empty⟩⟩

/-- With a last line that is not blank, `k` lines on: it leaves M in the cycle `k + 5`. -/
theorem drainsAt_of_last {l : Line} (pc : s.pc = 0) (line : s.prog[k]? = some l) (text : l.isBlank = false)
    (last : ∀ j l, k < j → s.prog[j]? = some l → l.isBlank = true) : DrainsAt s (max s.prog.length (k + 5)) where
  past := by omega
  rest j low := queue_eq_idle fun m hm => State.lineSlot_of_blank fun l hl => last _ l (by omega) hl
  live j hj := by
    by_cases inside : j < s.prog.length
    · exact .inl (by omega)
    · obtain ⟨bound, -⟩ := List.getElem?_eq_some_iff.mp line
      have slot : queue (.instr .nop) s.lineSlot (k + 4) = l.decode := State.lineSlot_of_line (by simpa [pc] using line)
      refine .inr ⟨k + 4, by omega, by omega, fun nop => ?_⟩
      simpa [text] using Line.isBlank_of_decode_nop (slot.symm.trans nop)

/-- With blank lines only. -/
theorem drainsAt_of_blank (pc : s.pc = 0) (blank : ∀ l ∈ s.prog, l.isBlank = true) : DrainsAt s s.prog.length where
  past := by omega
  rest _ _ := queue_eq_idle fun _ _ => State.lineSlot_of_blank fun l hl => blank l (List.mem_of_getElem? hl)
  live _ _ := .inl (by omega)

theorem straightLines_of_prog
    (lines : ∀ l ∈ s.prog, l.wellFormed = true ∧ ∀ i, l.decode = .instr i → i.isBranch = false) : StraightLines s where
  formed k why := by
    obtain nop | ⟨l, hl, slot⟩ := s.lineSlot_cases k
    · simp [nop]
    · obtain ⟨formed, -⟩ := lines l hl
      exact slot ▸ l.wellFormed_iff.mp formed why
  straight k i h := by
    obtain nop | ⟨l, hl, slot⟩ := s.lineSlot_cases k
    · obtain rfl := Decoded.instr.inj (nop.symm.trans h)
      rfl
    · obtain ⟨-, straight⟩ := lines l hl
      exact straight i (slot.symm.trans h)

end Sys2Proof.Machine

namespace Sys2Proof.Claims

open Sys2Proof.Machine

/-- Settles O51: in both cases the program is past its end and the latches are empty after `n` cycles and not before. -/
theorem branchFreeProgramDrains : Obligations.BranchFreeProgramDrains := by
  intro s n ready pc cycles lines last below
  have drains : DrainsAt s n := by
    obtain ⟨k, l, line, text, last, rfl⟩ | ⟨blank, rfl⟩ := last
    · exact drainsAt_of_last pc line text last
    · exact drainsAt_of_blank pc blank
  obtain ⟨t, h, later, drained⟩ := drains.run ready (straightLines_of_prog lines) (by omega)
  obtain ⟨halts, cause⟩ := step_of_drained (later.runState ▸ ready.not_halted) drained
  exact ⟨t, _, h, later.runState, by rw [later.cycles, cycles, Nat.zero_add], halts, rfl, cause⟩

end Sys2Proof.Claims
end
